-- ==== Sys2Proof/Word.lean ====
section
/-! DEFINITION. The value types of the CHIP-8 CORE: the byte, the 16-bit word, the 12-bit address field, the
register name, and the nibble that names a register in an instruction word (spec 00_scope.md R8, R9). -/

namespace Sys2Proof

/-- An 8-bit value: a memory cell, a general register, a timer, a key flag (R6). -/
abbrev Byte := BitVec 8

/-- A 16-bit value: an opcode, `I`, `pc`, a stack slot (R6). -/
abbrev Word := BitVec 16

/-- The 12-bit field `nnn` of an opcode (R81). -/
abbrev Addr12 := BitVec 12

/-- The name of a general register V0 to VF, also a key code 0x0 to 0xF (R21, R33). -/
abbrev Reg := Fin 16

/-- V0, the implicit offset register of Bnnn (R103). -/
abbrev V0 : Reg := 0

/-- VF, the flag register, a plain indexable register (R22). -/
abbrev VF : Reg := 15

/-- The four bits by which a register field names a register, or a row count is written (R81). -/
def nib (x : Reg) : BitVec 4 := BitVec.ofFin x

/-- The register or count that four bits name (R81). -/
def unnib (b : BitVec 4) : Reg := b.toFin

@[simp] theorem unnib_nib (x : Reg) : unnib (nib x) = x := rfl

@[simp] theorem nib_unnib (b : BitVec 4) : nib (unnib b) = b := rfl

end Sys2Proof
end

