-- ==== Sys2Proof/Syntax.lean ====
section
/-! DEFINITION. The instructions: one constructor per row of spec/opcode_table.json, in the table's order (R89).
The fields are those of R81, each of exactly the width the word gives it, so no field can hold a value that the
encoding does not admit. -/

namespace Sys2Proof

/-- The 34 instructions of the base CHIP-8 instruction set (R2, R89). -/
inductive Instr where
  /-- `00E0` CLS, clear the frame buffer. -/
  | cls
  /-- `00EE` RET, return. -/
  | ret
  /-- `1nnn` JP, jump. -/
  | jp (nnn : Addr12)
  /-- `2nnn` CALL, call. -/
  | call (nnn : Addr12)
  /-- `3xnn` SE_IMM, skip if `V[x] = nn`. -/
  | seImm (x : Reg) (nn : Byte)
  /-- `4xnn` SNE_IMM, skip if `V[x] != nn`. -/
  | sneImm (x : Reg) (nn : Byte)
  /-- `5xy0` SE_REG, skip if `V[x] = V[y]`. -/
  | seReg (x y : Reg)
  /-- `6xnn` LD_IMM, load an immediate. -/
  | ldImm (x : Reg) (nn : Byte)
  /-- `7xnn` ADD_IMM, add an immediate. -/
  | addImm (x : Reg) (nn : Byte)
  /-- `8xy0` LD_REG, assign. -/
  | ldReg (x y : Reg)
  /-- `8xy1` OR. -/
  | orReg (x y : Reg)
  /-- `8xy2` AND. -/
  | andReg (x y : Reg)
  /-- `8xy3` XOR. -/
  | xorReg (x y : Reg)
  /-- `8xy4` ADD_REG, add with carry out. -/
  | addReg (x y : Reg)
  /-- `8xy5` SUB, subtract. -/
  | sub (x y : Reg)
  /-- `8xy6` SHR, shift right by one. -/
  | shr (x y : Reg)
  /-- `8xy7` SUBN, reverse subtract. -/
  | subn (x y : Reg)
  /-- `8xyE` SHL, shift left by one. -/
  | shl (x y : Reg)
  /-- `9xy0` SNE_REG, skip if `V[x] != V[y]`. -/
  | sneReg (x y : Reg)
  /-- `Annn` LD_I, load the index register. -/
  | ldI (nnn : Addr12)
  /-- `Bnnn` JP_V0, jump to `nnn + V[0]`. -/
  | jpV0 (nnn : Addr12)
  /-- `Cxnn` RND, random byte and mask. -/
  | rnd (x : Reg) (nn : Byte)
  /-- `Dxyn` DRW, draw an `n`-row sprite. -/
  | drw (x y : Reg) (n : Fin 16)
  /-- `Ex9E` SKP, skip if the key is pressed. -/
  | skp (x : Reg)
  /-- `ExA1` SKNP, skip if the key is not pressed. -/
  | sknp (x : Reg)
  /-- `Fx07` LD_VX_DT, read the delay timer. -/
  | ldVxDt (x : Reg)
  /-- `Fx0A` LD_VX_K, wait for a key. -/
  | ldVxK (x : Reg)
  /-- `Fx15` LD_DT_VX, write the delay timer. -/
  | ldDtVx (x : Reg)
  /-- `Fx18` LD_ST_VX, write the sound timer. -/
  | ldStVx (x : Reg)
  /-- `Fx1E` ADD_I, add to the index register. -/
  | addI (x : Reg)
  /-- `Fx29` LD_F, font glyph address. -/
  | ldF (x : Reg)
  /-- `Fx33` LD_B, store decimal digits. -/
  | ldB (x : Reg)
  /-- `Fx55` ST_REGS, store registers V0 to Vx. -/
  | stRegs (x : Reg)
  /-- `Fx65` LD_REGS, load registers V0 to Vx. -/
  | ldRegs (x : Reg)
  deriving DecidableEq, Repr

end Sys2Proof
end

