-- ==== Sys2Proof/WellFormed.lean ====
section
/-! DEFINITION. Which words are well formed: the opcode map of R89 as rows of match and mask, and the legality of a
word as "some row matches it" (R90). It is written from the map and independently of the decoder's two-level
dispatch (R83), so that the two can be compared. Every TERM of `Instr` is well formed, because each of its fields
has exactly the width the word gives it (Syntax.lean): the checks that can fail are on words. -/

namespace Sys2Proof

/-- One row of the opcode map: a word `w` is the row's instruction iff `w & mask = bits` (R89). -/
structure OpRow where
  /-- The row's mnemonic in spec/opcode_table.json. -/
  mnemonic : String
  /-- The literal bits. -/
  bits : Word
  /-- Which bits are literal. -/
  mask : Word
  deriving DecidableEq, Repr

/-- The row's match test (R89). -/
def OpRow.accepts (r : OpRow) (w : Word) : Bool := w &&& r.mask == r.bits

/-- The row of the opcode map that each constructor stands for (R89). -/
def Instr.row : Instr → OpRow
  | .cls => ⟨"CLS", 0x00E0#16, 0xFFFF#16⟩
  | .ret => ⟨"RET", 0x00EE#16, 0xFFFF#16⟩
  | .jp _ => ⟨"JP", 0x1000#16, 0xF000#16⟩
  | .call _ => ⟨"CALL", 0x2000#16, 0xF000#16⟩
  | .seImm _ _ => ⟨"SE_IMM", 0x3000#16, 0xF000#16⟩
  | .sneImm _ _ => ⟨"SNE_IMM", 0x4000#16, 0xF000#16⟩
  | .seReg _ _ => ⟨"SE_REG", 0x5000#16, 0xF00F#16⟩
  | .ldImm _ _ => ⟨"LD_IMM", 0x6000#16, 0xF000#16⟩
  | .addImm _ _ => ⟨"ADD_IMM", 0x7000#16, 0xF000#16⟩
  | .ldReg _ _ => ⟨"LD_REG", 0x8000#16, 0xF00F#16⟩
  | .orReg _ _ => ⟨"OR", 0x8001#16, 0xF00F#16⟩
  | .andReg _ _ => ⟨"AND", 0x8002#16, 0xF00F#16⟩
  | .xorReg _ _ => ⟨"XOR", 0x8003#16, 0xF00F#16⟩
  | .addReg _ _ => ⟨"ADD_REG", 0x8004#16, 0xF00F#16⟩
  | .sub _ _ => ⟨"SUB", 0x8005#16, 0xF00F#16⟩
  | .shr _ _ => ⟨"SHR", 0x8006#16, 0xF00F#16⟩
  | .subn _ _ => ⟨"SUBN", 0x8007#16, 0xF00F#16⟩
  | .shl _ _ => ⟨"SHL", 0x800E#16, 0xF00F#16⟩
  | .sneReg _ _ => ⟨"SNE_REG", 0x9000#16, 0xF00F#16⟩
  | .ldI _ => ⟨"LD_I", 0xA000#16, 0xF000#16⟩
  | .jpV0 _ => ⟨"JP_V0", 0xB000#16, 0xF000#16⟩
  | .rnd _ _ => ⟨"RND", 0xC000#16, 0xF000#16⟩
  | .drw _ _ _ => ⟨"DRW", 0xD000#16, 0xF000#16⟩
  | .skp _ => ⟨"SKP", 0xE09E#16, 0xF0FF#16⟩
  | .sknp _ => ⟨"SKNP", 0xE0A1#16, 0xF0FF#16⟩
  | .ldVxDt _ => ⟨"LD_VX_DT", 0xF007#16, 0xF0FF#16⟩
  | .ldVxK _ => ⟨"LD_VX_K", 0xF00A#16, 0xF0FF#16⟩
  | .ldDtVx _ => ⟨"LD_DT_VX", 0xF015#16, 0xF0FF#16⟩
  | .ldStVx _ => ⟨"LD_ST_VX", 0xF018#16, 0xF0FF#16⟩
  | .addI _ => ⟨"ADD_I", 0xF01E#16, 0xF0FF#16⟩
  | .ldF _ => ⟨"LD_F", 0xF029#16, 0xF0FF#16⟩
  | .ldB _ => ⟨"LD_B", 0xF033#16, 0xF0FF#16⟩
  | .stRegs _ => ⟨"ST_REGS", 0xF055#16, 0xF0FF#16⟩
  | .ldRegs _ => ⟨"LD_REGS", 0xF065#16, 0xF0FF#16⟩

/-- The 34 rows of the opcode map, in the order of spec/opcode_table.json (R89). -/
def opcodeMap : List OpRow :=
  [⟨"CLS", 0x00E0#16, 0xFFFF#16⟩,
   ⟨"RET", 0x00EE#16, 0xFFFF#16⟩,
   ⟨"JP", 0x1000#16, 0xF000#16⟩,
   ⟨"CALL", 0x2000#16, 0xF000#16⟩,
   ⟨"SE_IMM", 0x3000#16, 0xF000#16⟩,
   ⟨"SNE_IMM", 0x4000#16, 0xF000#16⟩,
   ⟨"SE_REG", 0x5000#16, 0xF00F#16⟩] ++
  [⟨"LD_IMM", 0x6000#16, 0xF000#16⟩,
   ⟨"ADD_IMM", 0x7000#16, 0xF000#16⟩,
   ⟨"LD_REG", 0x8000#16, 0xF00F#16⟩,
   ⟨"OR", 0x8001#16, 0xF00F#16⟩,
   ⟨"AND", 0x8002#16, 0xF00F#16⟩,
   ⟨"XOR", 0x8003#16, 0xF00F#16⟩,
   ⟨"ADD_REG", 0x8004#16, 0xF00F#16⟩] ++
  [⟨"SUB", 0x8005#16, 0xF00F#16⟩,
   ⟨"SHR", 0x8006#16, 0xF00F#16⟩,
   ⟨"SUBN", 0x8007#16, 0xF00F#16⟩,
   ⟨"SHL", 0x800E#16, 0xF00F#16⟩,
   ⟨"SNE_REG", 0x9000#16, 0xF00F#16⟩,
   ⟨"LD_I", 0xA000#16, 0xF000#16⟩,
   ⟨"JP_V0", 0xB000#16, 0xF000#16⟩] ++
  [⟨"RND", 0xC000#16, 0xF000#16⟩,
   ⟨"DRW", 0xD000#16, 0xF000#16⟩,
   ⟨"SKP", 0xE09E#16, 0xF0FF#16⟩,
   ⟨"SKNP", 0xE0A1#16, 0xF0FF#16⟩,
   ⟨"LD_VX_DT", 0xF007#16, 0xF0FF#16⟩,
   ⟨"LD_VX_K", 0xF00A#16, 0xF0FF#16⟩,
   ⟨"LD_DT_VX", 0xF015#16, 0xF0FF#16⟩] ++
  [⟨"LD_ST_VX", 0xF018#16, 0xF0FF#16⟩,
   ⟨"ADD_I", 0xF01E#16, 0xF0FF#16⟩,
   ⟨"LD_F", 0xF029#16, 0xF0FF#16⟩,
   ⟨"LD_B", 0xF033#16, 0xF0FF#16⟩,
   ⟨"ST_REGS", 0xF055#16, 0xF0FF#16⟩,
   ⟨"LD_REGS", 0xF065#16, 0xF0FF#16⟩]

/-- A word is legal iff it matches a row of the opcode map; every other word is `Illegal` (R90). -/
def legalWord (w : Word) : Bool := opcodeMap.any (fun r => r.accepts w)

end Sys2Proof
end

