-- ==== Sys2Proof/Decode.lean ====
section
/-! DEFINITION. The instruction decoder, from 30_encoding.md: the fields of an opcode (R81), the two-level dispatch
(R83 to R88), the encoder written from the same pattern table, and the decoder of a byte sequence, total on any
bytes, which rejects by name (R80, R90). -/

namespace Sys2Proof

/-- The family, `op[15:12]` (R81). -/
def fieldFamily (w : Word) : BitVec 4 := w.extractLsb' 12 4

/-- The field `x`, `op[11:8]` (R81). -/
def fieldX (w : Word) : Reg := unnib (w.extractLsb' 8 4)

/-- The field `y`, `op[7:4]` (R81). -/
def fieldY (w : Word) : Reg := unnib (w.extractLsb' 4 4)

/-- The field `n`, `op[3:0]` (R81). -/
def fieldN (w : Word) : Fin 16 := unnib (w.extractLsb' 0 4)

/-- The field `nn`, `op[7:0]` (R81). -/
def fieldNN (w : Word) : Byte := w.extractLsb' 0 8

/-- The field `nnn`, `op[11:0]` (R81). -/
def fieldNNN (w : Word) : Addr12 := w.extractLsb' 0 12

/-- Family 0x0: only the two exact words are instructions (R84). -/
def decodeFixed (w : Word) : Option Instr :=
  if w = 0x00E0#16 then some .cls
  else if w = 0x00EE#16 then some .ret
  else none

/-- Family 0x8, selected by `n` (R85). -/
def decodeAlu (x y : Reg) (n : Nat) : Option Instr :=
  match n with
  | 0x0 => some (.ldReg x y)
  | 0x1 => some (.orReg x y)
  | 0x2 => some (.andReg x y)
  | 0x3 => some (.xorReg x y)
  | 0x4 => some (.addReg x y)
  | 0x5 => some (.sub x y)
  | 0x6 => some (.shr x y)
  | 0x7 => some (.subn x y)
  | 0xE => some (.shl x y)
  | _ => none

/-- Family 0xE, selected by `nn` (R86). -/
def decodeKeySkip (x : Reg) (nn : Nat) : Option Instr :=
  match nn with
  | 0x9E => some (.skp x)
  | 0xA1 => some (.sknp x)
  | _ => none

/-- Family 0xF, selected by `nn` (R87). -/
def decodeMisc (x : Reg) (nn : Nat) : Option Instr :=
  match nn with
  | 0x07 => some (.ldVxDt x)
  | 0x0A => some (.ldVxK x)
  | 0x15 => some (.ldDtVx x)
  | 0x18 => some (.ldStVx x)
  | 0x1E => some (.addI x)
  | 0x29 => some (.ldF x)
  | 0x33 => some (.ldB x)
  | 0x55 => some (.stRegs x)
  | 0x65 => some (.ldRegs x)
  | _ => none

/-- Families 0x5 and 0x9: bits 3:0 must be 0 (R88). -/
def decodeLowZero (w : Word) (i : Instr) : Option Instr :=
  if fieldN w = 0 then some i else none

/-- The decoder: total on words; `none` is the spec's `Illegal` (R83). -/
def decode (w : Word) : Option Instr :=
  match (fieldFamily w).toNat with
  | 0x0 => decodeFixed w
  | 0x1 => some (.jp (fieldNNN w))
  | 0x2 => some (.call (fieldNNN w))
  | 0x3 => some (.seImm (fieldX w) (fieldNN w))
  | 0x4 => some (.sneImm (fieldX w) (fieldNN w))
  | 0x5 => decodeLowZero w (.seReg (fieldX w) (fieldY w))
  | 0x6 => some (.ldImm (fieldX w) (fieldNN w))
  | 0x7 => some (.addImm (fieldX w) (fieldNN w))
  | 0x8 => decodeAlu (fieldX w) (fieldY w) (fieldN w).val
  | 0x9 => decodeLowZero w (.sneReg (fieldX w) (fieldY w))
  | 0xA => some (.ldI (fieldNNN w))
  | 0xB => some (.jpV0 (fieldNNN w))
  | 0xC => some (.rnd (fieldX w) (fieldNN w))
  | 0xD => some (.drw (fieldX w) (fieldY w) (fieldN w))
  | 0xE => decodeKeySkip (fieldX w) (fieldNN w).toNat
  | 0xF => decodeMisc (fieldX w) (fieldNN w).toNat
  | _ => none

/-- The word with the given family and address field, format NNN (R81). -/
def wordNNN (f : BitVec 4) (nnn : Addr12) : Word := f ++ nnn

/-- The word with the given family, register and 8-bit field, formats XNN and XSS (R81). -/
def wordXNN (f : BitVec 4) (x : Reg) (nn : Byte) : Word := f ++ nib x ++ nn

/-- The word with the given four digits, formats XYN and XYS (R81). -/
def wordXYN (f : BitVec 4) (x y : Reg) (n : Fin 16) : Word := f ++ nib x ++ nib y ++ nib n

/-- The encoder: the word of an instruction, digit by digit from the patterns of the opcode map (R89). -/
def encode : Instr → Word
  | .cls => 0x00E0#16
  | .ret => 0x00EE#16
  | .jp nnn => wordNNN 0x1#4 nnn
  | .call nnn => wordNNN 0x2#4 nnn
  | .seImm x nn => wordXNN 0x3#4 x nn
  | .sneImm x nn => wordXNN 0x4#4 x nn
  | .seReg x y => wordXYN 0x5#4 x y 0x0
  | .ldImm x nn => wordXNN 0x6#4 x nn
  | .addImm x nn => wordXNN 0x7#4 x nn
  | .ldReg x y => wordXYN 0x8#4 x y 0x0
  | .orReg x y => wordXYN 0x8#4 x y 0x1
  | .andReg x y => wordXYN 0x8#4 x y 0x2
  | .xorReg x y => wordXYN 0x8#4 x y 0x3
  | .addReg x y => wordXYN 0x8#4 x y 0x4
  | .sub x y => wordXYN 0x8#4 x y 0x5
  | .shr x y => wordXYN 0x8#4 x y 0x6
  | .subn x y => wordXYN 0x8#4 x y 0x7
  | .shl x y => wordXYN 0x8#4 x y 0xE
  | .sneReg x y => wordXYN 0x9#4 x y 0x0
  | .ldI nnn => wordNNN 0xA#4 nnn
  | .jpV0 nnn => wordNNN 0xB#4 nnn
  | .rnd x nn => wordXNN 0xC#4 x nn
  | .drw x y n => wordXYN 0xD#4 x y n
  | .skp x => wordXNN 0xE#4 x 0x9E#8
  | .sknp x => wordXNN 0xE#4 x 0xA1#8
  | .ldVxDt x => wordXNN 0xF#4 x 0x07#8
  | .ldVxK x => wordXNN 0xF#4 x 0x0A#8
  | .ldDtVx x => wordXNN 0xF#4 x 0x15#8
  | .ldStVx x => wordXNN 0xF#4 x 0x18#8
  | .addI x => wordXNN 0xF#4 x 0x1E#8
  | .ldF x => wordXNN 0xF#4 x 0x29#8
  | .ldB x => wordXNN 0xF#4 x 0x33#8
  | .stRegs x => wordXNN 0xF#4 x 0x55#8
  | .ldRegs x => wordXNN 0xF#4 x 0x65#8

/-- The two bytes of a word as memory holds them: the high byte at the lower address (R54, R56). -/
def highByte (w : Word) : Byte := w.extractLsb' 8 8

/-- The low byte of a word, held at the higher address (R54, R56). -/
def lowByte (w : Word) : Byte := w.extractLsb' 0 8

/-- The bytes of a word in memory order, big-endian (R54). -/
def wordBytes (w : Word) : List Byte := [highByte w, lowByte w]

/-- The word two bytes make, the byte at the lower address being the more significant (R54). -/
def bytesWord (hi lo : Byte) : Word := hi ++ lo

/-- Why a byte sequence is no instruction. -/
inductive DecodeError where
  /-- Fewer than the two bytes every instruction has (R80). -/
  | truncated
  /-- The word matches no pattern (R90). -/
  | illegal (op : Word)
  deriving DecidableEq, Repr

/-- The decoder on bytes: total on any sequence; it answers the first instruction and the bytes after it, or
the name of the reason there is none (R80, R90). -/
def decodeBytes : List Byte → Except DecodeError (Instr × List Byte)
  | hi :: lo :: rest =>
    match decode (bytesWord hi lo) with
    | some i => .ok (i, rest)
    | none => .error (.illegal (bytesWord hi lo))
  | _ => .error .truncated

/-- The 16-bit word whose low `nbits` bits are those of `w`, the bits above being 0: how spec/opcode_table.json
numbers an instruction's bits (bit 0 the least significant). -/
def tableWord (nbits w : Nat) : Word := BitVec.ofNat 16 (w % 2 ^ nbits)

/-- The instruction the decoder reads from the word `w` numbered as spec/opcode_table.json numbers it, laid out
big-endian as memory holds it (R54, R89). -/
def decodeTableWord (nbits w : Nat) : Option Instr :=
  match decodeBytes (wordBytes (tableWord nbits w)) with
  | .ok (i, _) => some i
  | .error _ => none

end Sys2Proof
end

