-- ==== Sys2Proof/Config.lean ====
section
/-! DEFINITION. What is fixed for one machine and never changes while it runs: the sizes of the block (R6), the
types of the named parameters (R7), and the random source as a free value (R131, R191). The VALUES taken for
`SHIFT_SRC`, `EDGE_POLICY` and `FONT` stand in Machine/Params.lean. -/

namespace Sys2Proof

/-- Number of memory cells (R6, R50). -/
abbrev Config.memSize : Nat := 4096

/-- Where LOAD puts byte 0 of a program image, and the entry point (R6, R51). -/
abbrev Config.progBase : Nat := 0x200

/-- Longest program image in bytes, 4096 - 0x200 (R6, R204). -/
abbrev Config.maxImage : Nat := 3584

/-- Columns of the screen (R6, R151). -/
abbrev Config.columns : Nat := 64

/-- Rows of the screen (R6, R151). -/
abbrev Config.rows : Nat := 32

/-- Cells of the frame buffer, 64 * 32 (R6, R31). -/
abbrev Config.cells : Nat := 2048

/-- Parameter `SHIFT_SRC`: which register 8xy6 and 8xyE shift (R7). -/
inductive ShiftSrc where
  /-- `V[x]` is shifted in place. -/
  | vx
  /-- `V[y]` is shifted into `V[x]`. -/
  | vy
  deriving DecidableEq, Repr

/-- Parameter `EDGE_POLICY`: what Dxyn does with sprite pixels past the right or bottom edge (R7). -/
inductive EdgePolicy where
  /-- Every pixel coordinate is reduced modulo the screen's size. -/
  | wrap
  /-- A pixel past an edge is dropped. -/
  | clip
  deriving DecidableEq, Repr

/-- The byte that draw number `n` of the random source supplies to a step: a FREE VALUE under no law (R131, R191,
D28). DESIGN CHOICE (log entry 1), safe: it has no body, so nothing can be proved of its value. -/
opaque Config.randByte : Nat → Byte

end Sys2Proof
end

