-- ==== Sys2Proof/Machine/Params.lean ====
section
/-! DEFINITION. The values the spec takes for its named parameters (00_scope.md R7). The operations of
Machine/Operands.lean and Machine/Display.lean take the first two as arguments, so that a claim can be made for
either value; the instruction meanings pass the values below. -/

namespace Sys2Proof.Machine

/-- `SHIFT_SRC = VX` (R7, R128, R130). DESIGN CHOICE of the spec, D7 (log entry 3); unsafe. -/
def shiftSrc : ShiftSrc := .vx

/-- `EDGE_POLICY = wrap` (R7, R152). DESIGN CHOICE of the spec, D13 (log entry 4); unsafe. -/
def edgePolicy : EdgePolicy := .wrap

/-- `FONT`: the 16 glyphs of 5 bytes of the hexadecimal digits (R202). UNVERIFIED: the spec has the bytes from
general knowledge, D24 (log entry 5); unsafe. -/
def font : List Byte :=
  [0xF0#8, 0x90#8, 0x90#8, 0x90#8, 0xF0#8] ++ -- 0
  [0x20#8, 0x60#8, 0x20#8, 0x20#8, 0x70#8] ++ -- 1
  [0xF0#8, 0x10#8, 0xF0#8, 0x80#8, 0xF0#8] ++ -- 2
  [0xF0#8, 0x10#8, 0xF0#8, 0x10#8, 0xF0#8] ++ -- 3
  [0x90#8, 0x90#8, 0xF0#8, 0x10#8, 0x10#8] ++ -- 4
  [0xF0#8, 0x80#8, 0xF0#8, 0x10#8, 0xF0#8] ++ -- 5
  [0xF0#8, 0x80#8, 0xF0#8, 0x90#8, 0xF0#8] ++ -- 6
  [0xF0#8, 0x10#8, 0x20#8, 0x40#8, 0x40#8] ++ -- 7
  [0xF0#8, 0x90#8, 0xF0#8, 0x90#8, 0xF0#8] ++ -- 8
  [0xF0#8, 0x90#8, 0xF0#8, 0x10#8, 0xF0#8] ++ -- 9
  [0xF0#8, 0x90#8, 0xF0#8, 0x90#8, 0x90#8] ++ -- A
  [0xE0#8, 0x90#8, 0xE0#8, 0x90#8, 0xE0#8] ++ -- B
  [0xF0#8, 0x80#8, 0x80#8, 0x80#8, 0xF0#8] ++ -- C
  [0xE0#8, 0x90#8, 0x90#8, 0x90#8, 0xE0#8] ++ -- D
  [0xF0#8, 0x80#8, 0xF0#8, 0x80#8, 0xF0#8] ++ -- E
  [0xF0#8, 0x80#8, 0xF0#8, 0x80#8, 0x80#8]    -- F

end Sys2Proof.Machine
end

