-- ==== Sys2Proof/Machine/State.lean ====
section
/-! DEFINITION. The state of the CHIP-8 CORE, all of it, as plain data (10_state.md R20), the reasons a step can
stop (60_exceptions.md R174), and the state after RESET (R34, R200). -/

namespace Sys2Proof.Machine

/-- Memory as address and byte pairs in one canonical form: addresses strictly rising, every address below 4096,
and no entry equal to what an unlisted address reads as (`Memory.wf` in Machine/Ops.lean; log entry 10). -/
abbrev Memory := List Host.Cell

/-- The frame buffer: 32 rows of 64 one-bit cells, the cell `FB[px + py*64]` being bit `px` of row `py` (R31). -/
abbrev FrameBuffer := Vector (BitVec Config.columns) Config.rows

/-- The frame buffer with every cell 0 (R34, R150). -/
def clearScreen : FrameBuffer := Vector.replicate Config.rows 0#64

/-- The architectural state: the eleven components of R20 and the model's own counter `draws`. -/
structure State where
  /-- Memory, 4096 cells of 8 bits (R50). -/
  mem : Memory
  /-- General registers V0 to VF (R21). -/
  v : Vector Byte 16
  /-- Index register `I` (R24). -/
  i : Word
  /-- Program counter (R25). -/
  pc : Word
  /-- Return stack, 16 slots (R28). -/
  stack : Vector Word 16
  /-- Stack pointer, the number of return addresses held, 0 to 16 (R29; log entry 6). -/
  sp : Fin 17
  /-- Delay timer `DT` (R30). -/
  dt : Byte
  /-- Sound timer `ST` (R30). -/
  st : Byte
  /-- Frame buffer `FB` (R31; log entry 7). -/
  fb : FrameBuffer
  /-- The flag `display_dirty` (R32). -/
  dirty : Bool
  /-- Key flags (R33). -/
  keys : Vector Byte 16
  /-- The MODEL's own field, not the spec's: how many bytes the random source has supplied so far. The next draw is
  `Config.randByte draws` (R131, R191; log entries 1 and 2). -/
  draws : Nat
  deriving DecidableEq, Repr

/-- The error kinds of R174, each with the information its row gives. All are reported to the host and leave every
component as it was (R173). Each is SAFE: it is the spec's own outcome for the case it names. -/
inductive Fault where
  /-- Raised by STEP at the decode stage: the fetched word `op` is `Illegal` (R175). Safe: the spec's own fault. -/
  | decodeFault (op : Word)
  /-- Raised by 2nnn when `sp = 16` (R176). Safe: the spec's own fault. -/
  | stackOverflow
  /-- Raised by 00EE when `sp = 0` (R177). Safe: the spec's own fault. -/
  | stackUnderflow
  /-- Raised by the fetch, Dxyn, Fx33, Fx55 and Fx65 when a cell above 4095 would be accessed; `addr` is the lowest
  such address (R178). Safe: the spec's own fault. -/
  | memoryOutOfBounds (addr : Nat)
  /-- Raised by LOAD only: the image is longer than 3584 bytes; `length` is its length (R179). Safe: the spec's own
  fault. -/
  | programTooLarge (length : Nat)
  deriving DecidableEq, Repr

/-- The numeric code of a fault kind, rows 1 to 5 of the table (R174); row 0, no fault, is in `Reply.code`. -/
def Fault.code : Fault → Nat
  | .decodeFault _ => 1
  | .stackOverflow => 2
  | .stackUnderflow => 3
  | .memoryOutOfBounds _ => 4
  | .programTooLarge _ => 5

/-- The reasons the model has no meaning for an instruction. -/
inductive Refusal where
  /-- Raised by an arm of `exec` whose instruction has no meaning yet; no arm is left so. Safe: the model stops. -/
  | notModelled (mnemonic : String)
  deriving DecidableEq, Repr

/-- What a step or an instruction answers. -/
abbrev Result := Host.Outcome State Fault Refusal

/-- The state after RESET (R34, R200): everything zero but `pc = 0x200` and the font, which is what the first 80
addresses read as while nothing is listed. `draws` is the model's own (DESIGN CHOICE, log entry 2). -/
def State.reset : State where
  mem := []
  v := Vector.replicate 16 0#8
  i := 0#16
  pc := 0x0200#16
  stack := Vector.replicate 16 0#16
  sp := 0
  dt := 0#8
  st := 0#8
  fb := clearScreen
  dirty := false
  keys := Vector.replicate 16 0#8
  draws := 0

end Sys2Proof.Machine
end

