-- ==== Sys2Proof/Machine/Ops.lean ====
section
/-! DEFINITION. The named operations over the state: memory (20_memory.md), registers, the stack engine, the key
flags, the program counter, the fetch, and the one way a step ends in a fault (60_exceptions.md R173). Every
reader and writer of a component goes through these. -/

namespace Sys2Proof.Machine

/-! ### Memory -/

/-- What an address that the memory list does not name reads as: its content after RESET, the font below 0x050 and
zero above (R34, R200; log entry 10). -/
def Memory.unlisted (a : Nat) : Byte := font.getD a 0#8

/-- `MemRead(a, 1)` (R53). -/
def Memory.read : Memory → Nat → Byte
  | [], a => Memory.unlisted a
  | c :: m, a => if c.1 = a then c.2 else Memory.read m a

/-- The memory list without the entry for `a`. -/
def Memory.remove (m : Memory) (a : Nat) : Memory := m.filter (fun c => c.1 ≠ a)

/-- The memory list with an entry put in at its place in the rising order. -/
def Memory.put : Memory → Nat → Byte → Memory
  | [], a, b => [(a, b)]
  | c :: m, a, b => if a < c.1 then (a, b) :: c :: m else c :: Memory.put m a b

/-- `MemWrite(a, 1, b)` (R55), keeping the canonical form: writing what the address reads as unlisted takes its
entry out. -/
def Memory.write (m : Memory) (a : Nat) (b : Byte) : Memory :=
  if b = Memory.unlisted a then m.remove a else (m.remove a).put a b

/-- Byte writes at `a`, `a + 1`, and so on, in ascending order (R143, R144, R204). -/
def Memory.writeBytes : Memory → Nat → List Byte → Memory
  | m, _, [] => m
  | m, a, b :: bs => Memory.writeBytes (m.write a b) (a + 1) bs

/-- Byte reads at `a` to `a + n - 1`, in ascending order (R53). -/
def Memory.readBytes (m : Memory) (a n : Nat) : List Byte := (List.range n).map (fun k => m.read (a + k))

/-- The canonical form of memory: addresses strictly rising, all below 4096 (R50), no entry equal to what its
address reads as unlisted. -/
abbrev Memory.wf (m : Memory) : Prop :=
  m.Pairwise (fun c d => c.1 < d.1) ∧ ∀ c ∈ m, c.1 < Config.memSize ∧ c.2 ≠ Memory.unlisted c.1

/-! ### Reading a component -/

/-- The content of memory cell `a` (R53). -/
def State.byteAt (s : State) (a : Nat) : Byte := s.mem.read a

/-- `V[x]` (R9, R21). -/
def State.reg (s : State) (x : Reg) : Byte := s.v[x]

/-- `stack[k]` (R9, R28). -/
def State.slot (s : State) (k : Fin 16) : Word := s.stack[k]

/-- `keys[k]` (R9, R33). -/
def State.key (s : State) (k : Reg) : Byte := s.keys[k]

/-- `FB[p]` as a bit, of a frame-buffer content (R31); false past the last cell. -/
def cellOf (f : FrameBuffer) (p : Nat) : Bool :=
  (f[p / Config.columns]?.getD 0#64).getLsbD (p % Config.columns)

/-- `FB[p]` as a bit (R9, R31). -/
def State.cell (s : State) (p : Nat) : Bool := cellOf s.fb p

/-- `FB[p]` as it is presented to a reader, the byte 0x00 or 0x01 (R31, R186). -/
def State.cellByte (s : State) (p : Fin Config.cells) : Byte := if s.cell p.val then 1#8 else 0#8

/-- The tone output: the predicate `ST != 0` (R192). -/
def State.toneOn (s : State) : Bool := s.st != 0#8

/-- `sp` as the 8-bit register the spec stores it in (R29, R39). -/
def State.spByte (s : State) : Byte := BitVec.ofNat 8 s.sp.val

/-! ### Writing a component -/

/-- `V[x] <- b` (R9, R21). -/
def State.setReg (s : State) (x : Reg) (b : Byte) : State := { s with v := s.v.set x.val b x.isLt }

/-- All general registers at once (Fx65, R145). -/
def State.setRegs (s : State) (v : Vector Byte 16) : State := { s with v := v }

/-- `I <- w` (R24). -/
def State.setI (s : State) (w : Word) : State := { s with i := w }

/-- `pc <- w` (R25). -/
def State.setPc (s : State) (w : Word) : State := { s with pc := w }

/-- A new memory content (R55). -/
def State.setMem (s : State) (m : Memory) : State := { s with mem := m }

/-- `stack[k] <- w` (R28). -/
def State.setSlot (s : State) (k : Fin 16) (w : Word) : State := { s with stack := s.stack.set k.val w k.isLt }

/-- `sp <- n` (R29). -/
def State.setSp (s : State) (n : Fin 17) : State := { s with sp := n }

/-- `DT <- b` (R30). -/
def State.setDt (s : State) (b : Byte) : State := { s with dt := b }

/-- `ST <- b` (R30). -/
def State.setSt (s : State) (b : Byte) : State := { s with st := b }

/-- A new frame-buffer content (R31). -/
def State.setFb (s : State) (f : FrameBuffer) : State := { s with fb := f }

/-- `dirty <- d` (R32). -/
def State.setDirty (s : State) (d : Bool) : State := { s with dirty := d }

/-- `keys[k] <- b` (R33, R185). -/
def State.setKey (s : State) (k : Reg) (b : Byte) : State := { s with keys := s.keys.set k.val b k.isLt }

/-- The model's count of draws (log entry 2). -/
def State.setDraws (s : State) (n : Nat) : State := { s with draws := n }

/-! ### The end of an instruction -/

/-- The step ends with `Fault(f)`. No state goes with it: every component stays as it was before the step and
control goes nowhere inside the program (R173, R182). This is the one operation by which a meaning faults. -/
def raise (f : Fault) : Result := .fault f

/-- The fault of an access that starts at `a` and reaches past 4095: it carries the lowest address out of range
(R52). -/
def rangeFault (a : Nat) : Fault := .memoryOutOfBounds (max a Config.memSize)

/-- An access of `len` bytes at the exact address `a` reaches past the last cell (R52). -/
abbrev OutOfRange (a len : Nat) : Prop := 0 < len ∧ a + len - 1 > 4095

/-- `CheckRange(a, len)`, then `go` (R52). -/
def checkRange (a len : Nat) (go : Result) : Result :=
  if OutOfRange a len then raise (rangeFault a) else go

/-- `pc + 2`, the address of the instruction after this one (R26). -/
def State.pcNext (s : State) : Word := s.pc + 2#16

/-- `pc <- pc + 2` (R26). -/
def State.advance (s : State) : State := s.setPc s.pcNext

/-- `pc <- pc + 4` if `c`, else `pc <- pc + 2` (41_skip.md). -/
def State.skipIf (s : State) (c : Bool) : State := s.setPc (if c then s.pc + 4#16 else s.pcNext)

/-- The common end of the load and ALU instructions: `V[x] <- b`, `pc <- pc + 2`, `Done` (42_alu.md). -/
def finishReg (x : Reg) (b : Byte) (s : State) : Result := .next (s.setReg x b).advance

/-- The common end of the flag-writing ALU instructions: `V[x] <- b`, then `VF <- f` last, `pc <- pc + 2`, `Done`
(R22, R133). -/
def finishFlagged (x : Reg) (b f : Byte) (s : State) : Result := .next ((s.setReg x b).setReg VF f).advance

/-! ### The stack engine -/

/-- Push a return address: `none` when the stack is full, else `stack[sp] <- w; sp <- sp + 1` (R28, R102). -/
def State.push (s : State) (w : Word) : Option State :=
  if h : s.sp.val < 16 then
    some ((s.setSlot ⟨s.sp.val, h⟩ w).setSp ⟨s.sp.val + 1, by omega⟩)
  else none

/-- Pop a return address: `none` when the stack is empty, else `sp <- sp - 1` and the content of the slot at the
new `sp`, which the slot keeps (R28, R100). -/
def State.pop (s : State) : Option (Word × State) :=
  if h : 0 < s.sp.val then
    some (s.slot ⟨s.sp.val - 1, by omega⟩, s.setSp ⟨s.sp.val - 1, by omega⟩)
  else none

/-! ### Keys -/

/-- `Pressed(k)`: the key's byte is not zero (R114). -/
def State.pressed (s : State) (k : Reg) : Bool := s.key k != 0#8

/-- The sixteen key codes, ascending. -/
def keyCodes : List Reg := [0x0, 0x1, 0x2, 0x3, 0x4, 0x5, 0x6, 0x7] ++ [0x8, 0x9, 0xA, 0xB, 0xC, 0xD, 0xE, 0xF]

/-- The lowest code of a pressed key, if any key is pressed (R161). -/
def State.firstPressed (s : State) : Option Reg := keyCodes.find? (fun k => s.pressed k)

/-! ### The random source -/

/-- The byte the random source supplies to this step: a free value (R131, R191; log entry 1). -/
def State.rand (s : State) : Byte := Config.randByte s.draws

/-- One draw of the random source is consumed (R131). -/
def State.consumeDraw (s : State) : State := s.setDraws (s.draws + 1)

/-! ### The fetch -/

/-- The opcode at address `a`: the byte at `a` is its high byte (R54). -/
def State.wordAt (s : State) (a : Nat) : Word := bytesWord (s.byteAt a) (s.byteAt (a + 1))

/-- The fetch: `CheckRange(pc, 2)`, then the word at `pc`; it changes nothing (R54, R172). -/
def fetch (s : State) : Except Fault Word :=
  if OutOfRange s.pc.toNat 2 then .error (rangeFault s.pc.toNat) else .ok (s.wordAt s.pc.toNat)

/-- The word `w` stored big-endian where the fetch reads it, at `pc` and `pc + 1` (R54, R56); nothing is stored
where the fetch would fault. -/
def State.placeWord (s : State) (w : Word) : State :=
  if OutOfRange s.pc.toNat 2 then s else s.setMem (s.mem.writeBytes s.pc.toNat (wordBytes w))

end Sys2Proof.Machine
end

