-- ==== Sys2Proof/Machine/Operands.lean ====
section
/-! DEFINITION. The operand forms (30_encoding.md R82): addresses taken from the `nnn` field, memory at `I` plus an
offset, the key a register selects, the source of a shift, the glyph address, the decimal digits, and the
coordinates and pixels of a sprite. -/

namespace Sys2Proof.Machine

/-- `zext_16(nnn)`: the address field at its own value (R82, R101). -/
def target (nnn : Addr12) : Word := nnn.zeroExtend 16

/-- `zext_16` of a register's value (R103, R141). -/
def zext16 (b : Byte) : Word := b.zeroExtend 16

/-- The base address `I` of a memory operand as the exact integer (R52, D23). -/
def State.base (s : State) : Nat := s.i.toNat

/-- The key a register value selects: its low four bits (R114, D17). -/
def keyOf (b : Byte) : Reg := unnib (b.extractLsb' 0 4)

/-- A register name or key code as a byte, `zext_8` (R161). -/
def codeByte (k : Reg) : Byte := BitVec.ofNat 8 k.val

/-- The source of 8xy6 and 8xyE under the parameter `SHIFT_SRC` (R128, R130). -/
def shiftSource (p : ShiftSrc) (x y : Reg) (s : State) : Byte :=
  match p with
  | .vx => s.reg x
  | .vy => s.reg y

/-- The address of the glyph of a register's value, `zext_16(b) * 5` on the whole byte (R142, D21). -/
def glyphAddr (b : Byte) : Word := BitVec.ofNat 16 (b.toNat * 5)

/-- The decimal digits of a byte: hundreds, tens, ones (R143). -/
def decimalDigits (b : Byte) : List Byte :=
  [BitVec.ofNat 8 (b.toNat / 100), BitVec.ofNat 8 (b.toNat / 10 % 10), BitVec.ofNat 8 (b.toNat % 10)]

/-- The registers V0 to Vx, ascending, as Fx55 stores them (R144). -/
def regsThrough (x : Reg) (s : State) : List Byte := s.v.toList.take (x.val + 1)

/-- The register file after `V[k] <- MemRead(a + k, 1)` for `k` from 0 to x (R145). -/
def regsLoaded (x : Reg) (a : Nat) (s : State) : Vector Byte 16 :=
  Vector.ofFn (fun k : Fin 16 => if k.val ≤ x.val then s.byteAt (a + k.val) else s.reg k)

/-- The start column of a sprite, `V[x] mod 64` (R152). -/
def startColumn (b : Byte) : Nat := b.toNat % Config.columns

/-- The start row of a sprite, `V[y] mod 32` (R152, D14). -/
def startRow (b : Byte) : Nat := b.toNat % Config.rows

/-- The cell index of pixel (px, py): `px + py * 64` (R31, R151). -/
def cellIndex (px py : Nat) : Nat := px + py * Config.columns

/-- The cell of the sprite pixel at column offset `c` and row offset `r` of a sprite that starts at (x0, y0), under
the parameter `EDGE_POLICY`; `none` where the pixel is not visible (R152). -/
def pixelCell (p : EdgePolicy) (x0 y0 r c : Nat) : Option Nat :=
  match p with
  | .wrap => some (cellIndex ((x0 + c) % Config.columns) ((y0 + r) % Config.rows))
  | .clip => if x0 + c ≤ 63 ∧ y0 + r ≤ 31 then some (cellIndex (x0 + c) (y0 + r)) else none

/-- The visible cells under the 1 bits of sprite row `r`, whose byte is `b`, in the order the loop visits them: bit
7 is the leftmost pixel, column offset `c` is bit `7 - c` (R151, R152, D15). -/
def rowCells (p : EdgePolicy) (x0 y0 r : Nat) (b : Byte) : List Nat :=
  (List.range 8).filterMap (fun c => if b.getLsbD (7 - c) then pixelCell p x0 y0 r c else none)

/-- The visible cells under the 1 bits of a sprite whose rows from row `r` on are given, in the order the loop
visits them (R152). -/
def spriteCells (p : EdgePolicy) (x0 y0 : Nat) : Nat → List Byte → List Nat
  | _, [] => []
  | r, b :: bs => rowCells p x0 y0 r b ++ spriteCells p x0 y0 (r + 1) bs

end Sys2Proof.Machine
end

