-- ==== Sys2Proof/Machine/Flags.lean ====
section
/-! DEFINITION. The results of the flag-writing operations and the values they put in VF, each computed exactly and
then narrowed (42_alu.md R126 to R130, R132), and the sprite-collision detector with the bitmap writer
(44_display.md R152). A flag is always the byte 0x00 or 0x01 (R133). -/

namespace Sys2Proof.Machine

/-- A flag value as VF holds it, 0x00 or 0x01 (R22, R133). -/
def flagByte (c : Bool) : Byte := if c then 1#8 else 0#8

/-- The sum modulo 256 (R121, R126, R132). -/
def addByte (a b : Byte) : Byte := BitVec.ofNat 8 (a.toNat + b.toNat)

/-- Carry out of bit 7: the exact sum exceeds 255 (R126). -/
def carryFlag (a b : Byte) : Byte := flagByte (decide (a.toNat + b.toNat > 255))

/-- The difference modulo 256, `a - b + 256` when `a < b` (R127, R132). -/
def subByte (a b : Byte) : Byte := BitVec.ofNat 8 (a.toNat + 256 - b.toNat)

/-- NOT borrow of `a - b`: 1 when no borrow is needed, equality included (R127, D10). -/
def notBorrowFlag (a b : Byte) : Byte := flagByte (decide (a.toNat ≥ b.toNat))

/-- `b >> 1`, a zero entering at bit 7 (R128). -/
def shiftRight (b : Byte) : Byte := b >>> 1

/-- The bit 8xy6 shifts out, bit 0 of the source (R128). -/
def bitOutRight (b : Byte) : Byte := flagByte (b.getLsbD 0)

/-- `(b << 1) mod 256`, a zero entering at bit 0 (R130). -/
def shiftLeft (b : Byte) : Byte := b <<< 1

/-- The bit 8xyE shifts out, bit 7 of the source (R130). -/
def bitOutLeft (b : Byte) : Byte := flagByte (b.getLsbD 7)

/-- `FB[p] <- FB[p] ^ 1`: the bitmap writer's one move (R152). -/
def flipCell (f : FrameBuffer) (p : Nat) : FrameBuffer :=
  if h : p / Config.columns < Config.rows then
    f.set (p / Config.columns) (f[p / Config.columns] ^^^ BitVec.twoPow Config.columns (p % Config.columns)) h
  else f

/-- The draw loop over the visited cells: the frame buffer, and `hit`, which becomes 1 when a cell goes from set to
unset (R152). -/
def drawCells : List Nat → FrameBuffer × Bool → FrameBuffer × Bool
  | [], d => d
  | p :: ps, d => drawCells ps (flipCell d.1 p, d.2 || cellOf d.1 p)

end Sys2Proof.Machine
end

