-- ==== Sys2Proof/Machine/Alu.lean ====
section
/-! DEFINITION. The register load and ALU instructions: 6xnn, 7xnn, 8xy0 to 8xy7, 8xyE, Cxnn (42_alu.md). -/

namespace Sys2Proof.Machine

/-- `6xnn` LD_IMM (R120). -/
def execLdImm (x : Reg) (nn : Byte) (s : State) : Result := finishReg x nn s

/-- `7xnn` ADD_IMM (R121): VF is not written (R133). -/
def execAddImm (x : Reg) (nn : Byte) (s : State) : Result := finishReg x (addByte (s.reg x) nn) s

/-- `8xy0` LD_REG (R122). -/
def execLdReg (x y : Reg) (s : State) : Result := finishReg x (s.reg y) s

/-- `8xy1` OR (R123): VF is not written (R133). -/
def execOrReg (x y : Reg) (s : State) : Result := finishReg x (s.reg x ||| s.reg y) s

/-- `8xy2` AND (R124): VF is not written (R133). -/
def execAndReg (x y : Reg) (s : State) : Result := finishReg x (s.reg x &&& s.reg y) s

/-- `8xy3` XOR (R125): VF is not written (R133). -/
def execXorReg (x y : Reg) (s : State) : Result := finishReg x (s.reg x ^^^ s.reg y) s

/-- `8xy4` ADD_REG (R126). -/
def execAddReg (x y : Reg) (s : State) : Result :=
  finishFlagged x (addByte (s.reg x) (s.reg y)) (carryFlag (s.reg x) (s.reg y)) s

/-- `8xy5` SUB (R127). -/
def execSub (x y : Reg) (s : State) : Result :=
  finishFlagged x (subByte (s.reg x) (s.reg y)) (notBorrowFlag (s.reg x) (s.reg y)) s

/-- `8xy6` under the parameter `SHIFT_SRC` (R128). -/
def shiftRightWith (p : ShiftSrc) (x y : Reg) (s : State) : Result :=
  finishFlagged x (shiftRight (shiftSource p x y s)) (bitOutRight (shiftSource p x y s)) s

/-- `8xy6` SHR (R128), at the value the spec takes for `SHIFT_SRC`. -/
def execShr (x y : Reg) (s : State) : Result := shiftRightWith shiftSrc x y s

/-- `8xy7` SUBN (R129). -/
def execSubn (x y : Reg) (s : State) : Result :=
  finishFlagged x (subByte (s.reg y) (s.reg x)) (notBorrowFlag (s.reg y) (s.reg x)) s

/-- `8xyE` under the parameter `SHIFT_SRC` (R130). -/
def shiftLeftWith (p : ShiftSrc) (x y : Reg) (s : State) : Result :=
  finishFlagged x (shiftLeft (shiftSource p x y s)) (bitOutLeft (shiftSource p x y s)) s

/-- `8xyE` SHL (R130), at the value the spec takes for `SHIFT_SRC`. -/
def execShl (x y : Reg) (s : State) : Result := shiftLeftWith shiftSrc x y s

/-- `Cxnn` RND (R131): the drawn byte is a free value, and one draw is consumed. -/
def execRnd (x : Reg) (nn : Byte) (s : State) : Result := finishReg x (s.rand &&& nn) s.consumeDraw

end Sys2Proof.Machine
end

