-- ==== Sys2Proof/Machine/Display.lean ====
section
/-! DEFINITION. The display instructions: 00E0 and Dxyn (44_display.md). -/

namespace Sys2Proof.Machine

/-- `00E0` CLS (R150). -/
def execCls (s : State) : Result := .next ((s.setFb clearScreen).setDirty true).advance

/-- The sprite rows a Dxyn with `n` rows reads, row 0 first (R151). -/
def spriteRows (n : Fin 16) (s : State) : List Byte := s.mem.readBytes s.base n.val

/-- The cells a Dxyn visits, in order: those under the visible 1 bits of its sprite, the coordinates being read
before any write (R152, R153). -/
def spriteOf (p : EdgePolicy) (x y : Reg) (n : Fin 16) (s : State) : List Nat :=
  spriteCells p (startColumn (s.reg x)) (startRow (s.reg y)) 0 (spriteRows n s)

/-- `Dxyn` under the parameter `EDGE_POLICY` (R152): the draw, then `VF <- hit` last, `dirty <- 1`, `pc <- pc + 2`. -/
def drawWith (p : EdgePolicy) (x y : Reg) (n : Fin 16) (s : State) : Result :=
  checkRange s.base n.val
    (.next ((((s.setFb (drawCells (spriteOf p x y n s) (s.fb, false)).1).setReg VF
      (flagByte (drawCells (spriteOf p x y n s) (s.fb, false)).2)).setDirty true).advance))

/-- `Dxyn` DRW (R152), at the value the spec takes for `EDGE_POLICY`. -/
def execDrw (x y : Reg) (n : Fin 16) (s : State) : Result := drawWith edgePolicy x y n s

end Sys2Proof.Machine
end

