-- ==== Sys2Proof/Machine/Flow.lean ====
section
/-! DEFINITION. Jumps, calls and returns: 00EE, 1nnn, 2nnn, Bnnn (40_flow.md). -/

namespace Sys2Proof.Machine

/-- `00EE` RET (R100). -/
def execRet (s : State) : Result :=
  match s.pop with
  | none => raise .stackUnderflow
  | some (w, t) => .next (t.setPc w)

/-- `1nnn` JP (R101). -/
def execJp (nnn : Addr12) (s : State) : Result := .next (s.setPc (target nnn))

/-- `2nnn` CALL (R102). -/
def execCall (nnn : Addr12) (s : State) : Result :=
  match s.push s.pcNext with
  | none => raise .stackOverflow
  | some t => .next (t.setPc (target nnn))

/-- `Bnnn` JP_V0 (R103): the sum is not masked to 12 bits (D11). -/
def execJpV0 (nnn : Addr12) (s : State) : Result := .next (s.setPc (target nnn + zext16 (s.reg V0)))

end Sys2Proof.Machine
end

