-- ==== Sys2Proof/Machine/IndexMemory.lean ====
section
/-! DEFINITION. The index register and memory instructions: Annn, Fx1E, Fx29, Fx33, Fx55, Fx65
(43_index_memory.md). Each access is range-checked as a whole before anything is written, and `I` is left as it
was (R52, D22, D23). -/

namespace Sys2Proof.Machine

/-- `Annn` LD_I (R140). -/
def execLdI (nnn : Addr12) (s : State) : Result := .next (s.setI (target nnn)).advance

/-- `Fx1E` ADD_I (R141): a 16-bit wrapping sum; VF is not written (R133). -/
def execAddI (x : Reg) (s : State) : Result := .next (s.setI (s.i + zext16 (s.reg x))).advance

/-- `Fx29` LD_F (R142). -/
def execLdF (x : Reg) (s : State) : Result := .next (s.setI (glyphAddr (s.reg x))).advance

/-- `Fx33` LD_B (R143). -/
def execLdB (x : Reg) (s : State) : Result :=
  checkRange s.base 3 (.next (s.setMem (s.mem.writeBytes s.base (decimalDigits (s.reg x)))).advance)

/-- `Fx55` ST_REGS (R144). -/
def execStRegs (x : Reg) (s : State) : Result :=
  checkRange s.base (x.val + 1) (.next (s.setMem (s.mem.writeBytes s.base (regsThrough x s))).advance)

/-- `Fx65` LD_REGS (R145). -/
def execLdRegs (x : Reg) (s : State) : Result :=
  checkRange s.base (x.val + 1) (.next (s.setRegs (regsLoaded x s.base s)).advance)

end Sys2Proof.Machine
end

