-- ==== Sys2Proof/Machine/Skip.lean ====
section
/-! DEFINITION. The conditional skips: 3xnn, 4xnn, 5xy0, 9xy0, Ex9E, ExA1 (41_skip.md). -/

namespace Sys2Proof.Machine

/-- `3xnn` SE_IMM (R110). -/
def execSeImm (x : Reg) (nn : Byte) (s : State) : Result := .next (s.skipIf (s.reg x == nn))

/-- `4xnn` SNE_IMM (R111). -/
def execSneImm (x : Reg) (nn : Byte) (s : State) : Result := .next (s.skipIf (s.reg x != nn))

/-- `5xy0` SE_REG (R112). -/
def execSeReg (x y : Reg) (s : State) : Result := .next (s.skipIf (s.reg x == s.reg y))

/-- `9xy0` SNE_REG (R113). -/
def execSneReg (x y : Reg) (s : State) : Result := .next (s.skipIf (s.reg x != s.reg y))

/-- `Ex9E` SKP (R114, R115). -/
def execSkp (x : Reg) (s : State) : Result := .next (s.skipIf (s.pressed (keyOf (s.reg x))))

/-- `ExA1` SKNP (R114, R116). -/
def execSknp (x : Reg) (s : State) : Result := .next (s.skipIf (!s.pressed (keyOf (s.reg x))))

end Sys2Proof.Machine
end

