-- ==== Sys2Proof/Machine/TimersKeys.lean ====
section
/-! DEFINITION. The timer and key-wait instructions: Fx07, Fx0A, Fx15, Fx18 (45_timers_keys.md). -/

namespace Sys2Proof.Machine

/-- `Fx07` LD_VX_DT (R160). -/
def execLdVxDt (x : Reg) (s : State) : Result := finishReg x s.dt s

/-- `Fx0A` LD_VX_K (R161): the lowest pressed key, or, when none is pressed, the outcome `Waiting`, in which no
component changes and `pc` still points at this instruction (log entry 8). -/
def execLdVxK (x : Reg) (s : State) : Result :=
  match s.firstPressed with
  | some k => finishReg x (codeByte k) s
  | none => .next s

/-- `Fx15` LD_DT_VX (R162). -/
def execLdDtVx (x : Reg) (s : State) : Result := .next (s.setDt (s.reg x)).advance

/-- `Fx18` LD_ST_VX (R163). -/
def execLdStVx (x : Reg) (s : State) : Result := .next (s.setSt (s.reg x)).advance

end Sys2Proof.Machine
end

