-- ==== Sys2Proof/Machine/Step.lean ====
section
/-! DEFINITION. One STEP: fetch, decode, execute (60_exceptions.md R172). -/

namespace Sys2Proof.Machine

/-- `STEP` (R172). A word that is no instruction raises `DecodeFault` (R175). The outcome `Waiting` of Fx0A is the
next state that equals the present one (R161; `stepReply` in Machine/Transactions.lean tells it from `Done`). -/
def step (s : State) : Host.Outcome State Fault Refusal :=
  match fetch s with
  | .error f => raise f
  | .ok w =>
    match decode w with
    | some i => exec i s
    | none => raise (.decodeFault w)

/-- The state with the instruction word `w`, numbered as spec/opcode_table.json numbers its bits, stored big-endian
at `pc`, where the next step fetches it (log entry 11). -/
def State.withFetchWord (s : State) (nbits w : Nat) : State := s.placeWord (tableWord nbits w)

end Sys2Proof.Machine
end

