-- ==== Sys2Proof/Machine/Transactions.lean ====
section
/-! DEFINITION. The six transactions at the block's boundary and what each reports (60_exceptions.md R170, R171),
each atomic, in whatever order the host issues them (70_reset_and_hazards.md R210). -/

namespace Sys2Proof.Machine

/-- `TICK`: each timer that is not zero is decremented (R184). -/
def State.tick (s : State) : State :=
  (s.setDt (if s.dt = 0#8 then 0#8 else s.dt - 1#8)).setSt (if s.st = 0#8 then 0#8 else s.st - 1#8)

/-- `FRAME_ACK`: `dirty <- 0` (R186). -/
def State.frameAck (s : State) : State := s.setDirty false

/-- `RESET`: every component of the spec to its reset value (R200). The random source is outside the block, so the
model's count of its draws goes on (log entry 2). -/
def State.resetAll (s : State) : State := State.reset.setDraws s.draws

/-- `LOAD(bytes)`: copied to memory from 0x200, or `Fault(ProgramTooLarge)` with nothing written (R204). -/
def loadProgram (bytes : List Byte) (s : State) : Result :=
  if bytes.length > Config.maxImage then raise (.programTooLarge bytes.length)
  else .next (s.setMem (s.mem.writeBytes Config.progBase bytes))

/-- A transaction with its input (R170). -/
inductive Transaction where
  /-- Issued by the host. -/
  | reset
  /-- Issued by the host. -/
  | load (bytes : List Byte)
  /-- Issued by the host to the interpreter. -/
  | step
  /-- Issued by the timer driver. -/
  | tick
  /-- Issued by the input collaborator: `keys[k] <- b`. -/
  | keys (k : Reg) (b : Byte)
  /-- Issued by the renderer. -/
  | frameAck
  deriving DecidableEq, Repr

/-- What a transaction reports to the party that issued it (R170, R171). -/
inductive Reply where
  /-- RESET, TICK, KEYS and FRAME_ACK report nothing. -/
  | silent
  /-- LOAD succeeded. -/
  | ok
  /-- One instruction executed to completion and `pc` was written. -/
  | done
  /-- The instruction was Fx0A with no key pressed; nothing changed. -/
  | waiting
  /-- A fault; nothing changed. -/
  | fault (f : Fault)
  /-- The model has no meaning for the instruction; no step answers so. -/
  | refused (r : Refusal)
  deriving DecidableEq, Repr

/-- The code of the fault table for what a transaction reports (R174): 0 for `Done` and `Waiting`, the fault's own code
for a fault; the table gives no code to the other replies. -/
def Reply.code : Reply → Option Nat
  | .done => some 0
  | .waiting => some 0
  | .fault f => some f.code
  | .silent => none
  | .ok => none
  | .refused _ => none

/-- The outcome `Waiting`: the instruction is Fx0A and no key is pressed (R161, R171). -/
def waits (i : Instr) (s : State) : Bool :=
  match i with
  | .ldVxK _ => s.firstPressed.isNone
  | _ => false

/-- The instruction the next STEP executes, if it gets that far (R172). -/
def current (s : State) : Option Instr :=
  match fetch s with
  | .ok w => decode w
  | .error _ => none

/-- What STEP reports (R171). -/
def stepReply (s : State) : Reply :=
  match step s with
  | .next _ => if (current s).any (fun i => waits i s) then .waiting else .done
  | .fault f => .fault f
  | .refused r => .refused r

/-- The state an outcome leaves: a fault, or a refusal, leaves the state as it was (R173). -/
def stateAfter (s : State) : Result → State
  | .next t => t
  | .fault _ => s
  | .refused _ => s

/-- What LOAD reports (R204). -/
def loadReply : Result → Reply
  | .next _ => .ok
  | .fault f => .fault f
  | .refused r => .refused r

/-- One transaction: what it reports and the state it leaves (R170). -/
def perform (t : Transaction) (s : State) : Reply × State :=
  match t with
  | .reset => (.silent, s.resetAll)
  | .load bytes => (loadReply (loadProgram bytes s), stateAfter s (loadProgram bytes s))
  | .step => (stepReply s, stateAfter s (step s))
  | .tick => (.silent, s.tick)
  | .keys k b => (.silent, s.setKey k b)
  | .frameAck => (.silent, s.frameAck)

/-- A sequence of transactions, one after another, in the host's order (R61, R210). -/
def runAll : List Transaction → State → State
  | [], s => s
  | t :: ts, s => runAll ts (perform t s).2

end Sys2Proof.Machine
end

