-- ==== Sys2Proof/Safety.lean ====
section
/-! DEFINITION. The terms claims use: what it is for a component to be unchanged, the spec's own tables of who
writes what (R20, R21, R133), the cells a sprite touches (R153), and the invariant of the reachable states (R36). -/

namespace Sys2Proof.Machine

/-- The components of the state (R20), and the model's own counter. -/
inductive Component where
  | mem
  | v
  | i
  | pc
  | stack
  | sp
  | dt
  | st
  | fb
  | dirty
  | keys
  | draws
  deriving DecidableEq, Repr

/-- Two states hold the same content in a component, said cell by cell through the readers of Machine/Ops.lean. -/
def SameAt : Component → State → State → Prop
  | .mem, s, t => ∀ a : Nat, t.byteAt a = s.byteAt a
  | .v, s, t => ∀ x : Reg, t.reg x = s.reg x
  | .i, s, t => t.i = s.i
  | .pc, s, t => t.pc = s.pc
  | .stack, s, t => ∀ k : Fin 16, t.slot k = s.slot k
  | .sp, s, t => t.sp = s.sp
  | .dt, s, t => t.dt = s.dt
  | .st, s, t => t.st = s.st
  | .fb, s, t => ∀ p : Nat, t.cell p = s.cell p
  | .dirty, s, t => t.dirty = s.dirty
  | .keys, s, t => ∀ k : Reg, t.key k = s.key k
  | .draws, s, t => t.draws = s.draws

/-- From `s` to `t` nothing changes outside the components of `cs`. -/
def OnlyChanges (cs : List Component) (s t : State) : Prop := ∀ c : Component, c ∉ cs → SameAt c s t

/-- The components each instruction may write: the column "written by" of R20, read by instruction; `draws` is the
model's own and goes with Cxnn (R131). -/
def mayWrite : Instr → List Component
  | .cls => [.pc, .fb, .dirty]
  | .ret => [.pc, .sp]
  | .jp _ => [.pc]
  | .call _ => [.pc, .stack, .sp]
  | .seImm _ _ => [.pc]
  | .sneImm _ _ => [.pc]
  | .seReg _ _ => [.pc]
  | .ldImm _ _ => [.pc, .v]
  | .addImm _ _ => [.pc, .v]
  | .ldReg _ _ => [.pc, .v]
  | .orReg _ _ => [.pc, .v]
  | .andReg _ _ => [.pc, .v]
  | .xorReg _ _ => [.pc, .v]
  | .addReg _ _ => [.pc, .v]
  | .sub _ _ => [.pc, .v]
  | .shr _ _ => [.pc, .v]
  | .subn _ _ => [.pc, .v]
  | .shl _ _ => [.pc, .v]
  | .sneReg _ _ => [.pc]
  | .ldI _ => [.pc, .i]
  | .jpV0 _ => [.pc]
  | .rnd _ _ => [.pc, .v, .draws]
  | .drw _ _ _ => [.pc, .v, .fb, .dirty]
  | .skp _ => [.pc]
  | .sknp _ => [.pc]
  | .ldVxDt _ => [.pc, .v]
  | .ldVxK _ => [.pc, .v]
  | .ldDtVx _ => [.pc, .dt]
  | .ldStVx _ => [.pc, .st]
  | .addI _ => [.pc, .i]
  | .ldF _ => [.pc, .i]
  | .ldB _ => [.pc, .mem]
  | .stRegs _ => [.pc, .mem]
  | .ldRegs _ => [.pc, .v]

/-- Whether an instruction may write general register `z`: as its named destination, or, for the six flag writers,
as VF implicitly (R21, R22). -/
def mayWriteReg (i : Instr) (z : Reg) : Bool :=
  match i with
  | .ldImm x _ | .addImm x _ | .ldReg x _ | .orReg x _ | .andReg x _ | .xorReg x _ | .rnd x _ | .ldVxDt x
  | .ldVxK x => z == x
  | .addReg x _ | .sub x _ | .shr x _ | .subn x _ | .shl x _ => z == x || z == VF
  | .drw _ _ _ => z == VF
  | .ldRegs x => z.val ≤ x.val
  | .cls | .ret | .jp _ | .call _ | .seImm _ _ | .sneImm _ _ | .seReg _ _ | .sneReg _ _ | .ldI _ | .jpV0 _ | .skp _
  | .sknp _ | .ldDtVx _ | .ldStVx _ | .addI _ | .ldF _ | .ldB _ | .stRegs _ => false

/-- The flag writers: the six instructions that write VF as a flag (R22, R133). -/
def writesFlag : Instr → Bool
  | .addReg _ _ | .sub _ _ | .shr _ _ | .subn _ _ | .shl _ _ | .drw _ _ _ => true
  | .cls | .ret | .jp _ | .call _ | .seImm _ _ | .sneImm _ _ | .seReg _ _ | .ldImm _ _ | .addImm _ _ | .ldReg _ _
  | .orReg _ _ | .andReg _ _ | .xorReg _ _ | .sneReg _ _ | .ldI _ | .jpV0 _ | .rnd _ _ | .skp _ | .sknp _ | .ldVxDt _
  | .ldVxK _ | .ldDtVx _ | .ldStVx _ | .addI _ | .ldF _ | .ldB _ | .stRegs _ | .ldRegs _ => false

/-- How many bytes an instruction stores, from address `I` on (R143, R144); 0 for a form that stores nothing. -/
def storeLength : Instr → Nat
  | .ldB _ => 3
  | .stRegs x => x.val + 1
  | .cls | .ret | .jp _ | .call _ | .seImm _ _ | .sneImm _ _ | .seReg _ _ | .ldImm _ _ | .addImm _ _ | .ldReg _ _
  | .orReg _ _ | .andReg _ _ | .xorReg _ _ | .addReg _ _ | .sub _ _ | .shr _ _ | .subn _ _ | .shl _ _ | .sneReg _ _
  | .ldI _ | .jpV0 _ | .rnd _ _ | .drw _ _ _ | .skp _ | .sknp _ | .ldVxDt _ | .ldVxK _ | .ldDtVx _ | .ldStVx _
  | .addI _ | .ldF _ | .ldRegs _ => 0

/-- The cell under the 1 bit at row `r`, column `c` of the sprite that Dxyn would draw, where it is visible: the
condition that puts cell `p` into the set T of R153, written from R151 and R152 and not from the draw loop. -/
def Touches (pol : EdgePolicy) (x y : Reg) (n : Fin 16) (s : State) (p : Nat) : Prop :=
  ∃ r c : Nat, r < n.val ∧ c < 8 ∧ (s.byteAt (s.i.toNat + r)).getLsbD (7 - c) = true ∧
    match pol with
    | .wrap => p = ((s.reg x).toNat % 64 + c) % 64 + ((s.reg y).toNat % 32 + r) % 32 * 64
    | .clip => (s.reg x).toNat % 64 + c ≤ 63 ∧ (s.reg y).toNat % 32 + r ≤ 31 ∧
        p = (s.reg x).toNat % 64 + c + ((s.reg y).toNat % 32 + r) * 64

/-- The invariant of the reachable states (R36): memory in its canonical form with every address inside the 4096
cells, `pc` at most 0x10FE, and every return address held on the stack at most 0x1000. That `sp` is at most 16, that
a frame-buffer cell is 0 or 1, and that indices are in range is in the types. -/
structure State.Inv (s : State) : Prop where
  memWf : Memory.wf s.mem
  pcBound : s.pc.toNat ≤ 0x10FE
  slotBound : ∀ k : Fin 16, k.val < s.sp.val → (s.slot k).toNat ≤ 0x1000

end Sys2Proof.Machine
end

