-- ==== Sys2Proof/Certificates/Slice0/Obligations.lean ====
section
/-! DEFINITION. The statements for the provers, each formalising rules of spec/ (OBLIGATIONS.json names them). A
statement that rests on a choice the spec marks as its own decision, or on a log entry of this model, says so. -/

open Sys2Proof Sys2Proof.Machine

/-! ### Encoding -/

/-- Decoding the word of any instruction gives that instruction, also out of a longer byte sequence, whose rest is
handed on (R80, R81, R83, R89). -/
def Obligations.DecodeInvertsEncode : Prop :=
  ∀ i : Instr, decode (encode i) = some i ∧
    ∀ rest : List Byte, decodeBytes (wordBytes (encode i) ++ rest) = .ok (i, rest)

/-- A legal word is the encoding of what it decodes to: no bit of it is dropped (R92: no don't-care bits). -/
def Obligations.EncodeInvertsDecode : Prop :=
  ∀ (w : Word) (i : Instr), decode w = some i → encode i = w

/-- A word is an instruction iff its bits under a row's mask are the row's match, and then it is that row's
instruction (R89). -/
def Obligations.DecoderFollowsOpcodeMap : Prop :=
  ∀ (w : Word) (r : OpRow), r ∈ opcodeMap → (r.accepts w = true ↔ ∃ i : Instr, decode w = some i ∧ i.row = r)

/-- The opcode map has 34 rows and no word matches two of them (R89, an inference the spec marks as derived; W2 of
95_test_vectors.md). -/
def Obligations.OpcodeMapRowsAreDisjoint : Prop :=
  opcodeMap.length = 34 ∧ ∀ (w : Word) (r q : OpRow), r ∈ opcodeMap → q ∈ opcodeMap →
    r.accepts w = true → q.accepts w = true → r = q

/-- The illegal words are exactly those the spec lists, told by their digits as numbers (R90; the strict reading of
families 0, 5 and 9 is the spec's decision D4, D5, log entry 12). -/
def Obligations.IllegalWordsAreThoseListed : Prop :=
  ∀ w : Word, decode w = none ↔
    (w.toNat / 4096 = 0x0 ∧ w.toNat ≠ 0x00E0 ∧ w.toNat ≠ 0x00EE) ∨
    ((w.toNat / 4096 = 0x5 ∨ w.toNat / 4096 = 0x9) ∧ w.toNat % 16 ≠ 0) ∨
    (w.toNat / 4096 = 0x8 ∧ (8 ≤ w.toNat % 16 ∧ w.toNat % 16 ≤ 13 ∨ w.toNat % 16 = 15)) ∨
    (w.toNat / 4096 = 0xE ∧ w.toNat % 256 ∉ [0x9E, 0xA1]) ∨
    (w.toNat / 4096 = 0xF ∧ w.toNat % 256 ∉ [0x07, 0x0A, 0x15, 0x18, 0x1E, 0x29, 0x33, 0x55, 0x65])

/-- Families 0xE and 0xF are selected by their low byte, every value of it (R86, R87). -/
def Obligations.FamiliesEAndFSelectByLowByte : Prop :=
  ∀ (x : Reg) (nn : Byte),
    decode (wordXNN 0xE#4 x nn) =
      (if nn = 0x9E#8 then some (.skp x) else if nn = 0xA1#8 then some (.sknp x) else none) ∧
    decode (wordXNN 0xF#4 x nn) =
      (if nn = 0x07#8 then some (.ldVxDt x) else if nn = 0x0A#8 then some (.ldVxK x)
      else if nn = 0x15#8 then some (.ldDtVx x) else if nn = 0x18#8 then some (.ldStVx x)
      else if nn = 0x1E#8 then some (.addI x) else if nn = 0x29#8 then some (.ldF x)
      else if nn = 0x33#8 then some (.ldB x) else if nn = 0x55#8 then some (.stRegs x)
      else if nn = 0x65#8 then some (.ldRegs x) else none)

/-- Words the spec writes out in its examples and vectors, at least one of each of the sixteen families and of each of
files 40 to 45, decode to the instructions they stand for, and words it calls illegal to none (95_test_vectors.md;
the refused words of families 0 and 5 rest on the spec's decisions D4 and D5, log entry 12, the codes of family 8 and
of the timer instructions on its D6 and D20, log entry 15). -/
def Obligations.ExampleWordsDecode : Prop :=
  decode 0x00E0#16 = some .cls ∧ decode 0x00EE#16 = some .ret ∧ decode 0x1200#16 = some (.jp 0x200#12) ∧
  decode 0x2208#16 = some (.call 0x208#12) ∧ decode 0x3A05#16 = some (.seImm 0xA 0x05#8) ∧
  decode 0x4A05#16 = some (.sneImm 0xA 0x05#8) ∧ decode 0x5120#16 = some (.seReg 1 2) ∧
  decode 0x9120#16 = some (.sneReg 1 2) ∧ decode 0x6105#16 = some (.ldImm 1 0x05#8) ∧
  decode 0x730A#16 = some (.addImm 3 0x0A#8) ∧ decode 0xB300#16 = some (.jpV0 0x300#12) ∧
  decode 0xC30F#16 = some (.rnd 3 0x0F#8) ∧ decode 0xF307#16 = some (.ldVxDt 3) ∧
  decode 0xF50A#16 = some (.ldVxK 5) ∧ decode 0xF315#16 = some (.ldDtVx 3) ∧ decode 0xF318#16 = some (.ldStVx 3) ∧
  decode 0x8124#16 = some (.addReg 1 2) ∧ decode 0x812E#16 = some (.shl 1 2) ∧
  decode 0xA300#16 = some (.ldI 0x300#12) ∧ decode 0xD122#16 = some (.drw 1 2 2) ∧
  decode 0xE39E#16 = some (.skp 3) ∧ decode 0xF255#16 = some (.stRegs 2) ∧
  decode 0x0000#16 = none ∧ decode 0x5121#16 = none ∧ decode 0x8128#16 = none ∧ decode 0xF075#16 = none

/-! ### The step and its faults -/

/-- One STEP: it faults where the two bytes at `pc` are not both in memory, raises `DecodeFault` with the word where
the big-endian word at `pc` is no instruction, and otherwise is the execution of the decoded instruction, with
nothing added before or after it (R172; the information of the two faults is the spec's decision D2, log entry 21). -/
def Obligations.StepFetchesDecodesExecutes : Prop :=
  ∀ s : State,
    (s.pc.toNat > 4094 → step s = .fault (.memoryOutOfBounds (max s.pc.toNat 4096))) ∧
    (s.pc.toNat ≤ 4094 →
      (decode (bytesWord (s.byteAt s.pc.toNat) (s.byteAt (s.pc.toNat + 1))) = none →
        step s = .fault (.decodeFault (bytesWord (s.byteAt s.pc.toNat) (s.byteAt (s.pc.toNat + 1))))) ∧
      ∀ i : Instr, decode (bytesWord (s.byteAt s.pc.toNat) (s.byteAt (s.pc.toNat + 1))) = some i →
        step s = exec i s)

/-- An instruction word placed at `pc` is the one the next step runs (log entry 11 of this model: how a test
program's word is placed). -/
def Obligations.PlacedWordIsExecuted : Prop :=
  ∀ (s : State) (i : Instr), s.pc.toNat ≤ 4094 →
    step (s.withFetchWord 16 (encode i).toNat) = exec i (s.withFetchWord 16 (encode i).toNat)

/-- `MemoryOutOfBounds` is raised by a step in exactly five places: the fetch, Dxyn, Fx33, Fx55, Fx65, each on its
own condition (R178). -/
def Obligations.OutOfBoundsArisesInFivePlaces : Prop :=
  ∀ s : State, (∃ a : Nat, step s = .fault (.memoryOutOfBounds a)) ↔
    s.pc.toNat > 4094 ∨
    (s.pc.toNat ≤ 4094 ∧
      ((∃ (x y : Reg) (n : Fin 16), decode (s.wordAt s.pc.toNat) = some (.drw x y n) ∧
          n.val > 0 ∧ s.i.toNat + n.val - 1 > 4095) ∨
        (∃ x : Reg, decode (s.wordAt s.pc.toNat) = some (.ldB x) ∧ s.i.toNat + 2 > 4095) ∨
        (∃ x : Reg, decode (s.wordAt s.pc.toNat) = some (.stRegs x) ∧ s.i.toNat + x.val > 4095) ∨
        (∃ x : Reg, decode (s.wordAt s.pc.toNat) = some (.ldRegs x) ∧ s.i.toNat + x.val > 4095)))

/-- The information of `MemoryOutOfBounds` is the lowest address of the access that is out of range: that of the
fetch, or of the access at `I` (the spec's decision D2, log entry 21). -/
def Obligations.OutOfBoundsCarriesLowestAddress : Prop :=
  ∀ (s : State) (a : Nat), step s = .fault (.memoryOutOfBounds a) →
    if s.pc.toNat > 4094 then a = max s.pc.toNat 4096 else a = max s.i.toNat 4096

/-- Calls executed one after another, stopping at the first that faults: how many call frames fit. -/
def callAll : List Addr12 → State → Result
  | [], s => .next s
  | nnn :: rest, s =>
    match exec (.call nnn) s with
    | .next t => callAll rest t
    | r => r

/-- `StackOverflow` is raised only by 2nnn, and exactly when `sp = 16`; `StackUnderflow` only by 00EE, and exactly
when `sp = 0`. Call frames fit up to 16, whatever their targets, and one more overflows: from an empty stack the
17th (R176, R177). -/
def Obligations.StackFaultsAriseExactlyAtTheLimits : Prop :=
  (∀ s : State,
    (step s = .fault .stackOverflow ↔
      s.pc.toNat ≤ 4094 ∧ s.sp.val = 16 ∧ ∃ nnn : Addr12, decode (s.wordAt s.pc.toNat) = some (.call nnn)) ∧
    (step s = .fault .stackUnderflow ↔
      s.pc.toNat ≤ 4094 ∧ s.sp.val = 0 ∧ decode (s.wordAt s.pc.toNat) = some .ret)) ∧
  ∀ (targets : List Addr12) (s : State),
    (s.sp.val + targets.length ≤ 16 →
      ∃ t : State, callAll targets s = .next t ∧ t.sp.val = s.sp.val + targets.length) ∧
    (s.sp.val + targets.length > 16 → callAll targets s = .fault .stackOverflow)

/-- Every step answers a next state or one of the four step faults: none is refused, and `ProgramTooLarge` is no
step fault. What STEP reports has a code 0 to 4, and code 0 exactly for `Done` and `Waiting`; code 5 is reported by
LOAD only, exactly for an image longer than 3584 bytes (R174, R179, R180; the codes are the spec's decision D2, log
entry 21). -/
def Obligations.EveryStepCompletesOrFaults : Prop :=
  ∀ s : State, ((∃ t : State, step s = .next t) ∨ ∃ f : Fault, step s = .fault f ∧ 1 ≤ f.code ∧ f.code ≤ 4) ∧
    (∃ c : Nat, (perform .step s).1.code = some c ∧ c ≤ 4 ∧
      (c = 0 ↔ (perform .step s).1 = .done ∨ (perform .step s).1 = .waiting)) ∧
    ∀ tr : Transaction, (perform tr s).1.code = some 5 ↔ ∃ bytes : List Byte, tr = .load bytes ∧ bytes.length > 3584

/-- A STEP that reports a fault or `Waiting` leaves the state as it was, pc included, and issued again reports the
same (R171, R173, R183; the spec's decision D3, log entry 9). -/
def Obligations.FaultAndWaitingLeaveStateUnmodified : Prop :=
  ∀ (s : State) (r : Reply), (perform .step s).1 = r → r ≠ .done →
    (perform .step s).2 = s ∧ perform .step (perform .step s).2 = (r, s)

/-- STEP reports `Waiting` exactly when the instruction at `pc` is Fx0A and every key flag is zero (R161, R171; the
name is the spec's decision D2, the level test its D19; log entries 8 and 14). -/
def Obligations.WaitingIsKeyWaitWithNoKeyPressed : Prop :=
  ∀ s : State, (perform .step s).1 = .waiting ↔
    s.pc.toNat ≤ 4094 ∧ (∃ x : Reg, decode (s.wordAt s.pc.toNat) = some (.ldVxK x)) ∧ ∀ k : Reg, s.key k = 0#8

/-! ### Jumps, calls and returns -/

/-- 00EE pops: it faults on an empty stack, else `pc` is the slot below `sp`, `sp` goes down by one, and nothing else
changes, the slot included; after a popped value above 4094 it is the next step that faults (R100, R27, R54; that only the fetch checks `pc` is the
spec's decision D11, log entry 18, the fault's information its D2, log entry 21, that the slot is kept its D26, log
entry 6). -/
def Obligations.ReturnPopsTheStack : Prop :=
  decode 0x00EE#16 = some .ret ∧ ∀ s : State,
    (s.sp.val = 0 → exec .ret s = .fault .stackUnderflow) ∧
    ∀ k : Fin 16, s.sp.val = k.val + 1 →
      ∃ t : State, exec .ret s = .next t ∧ t.pc = s.slot k ∧ t.sp.val = k.val ∧ OnlyChanges [.pc, .sp] s t ∧
        ((s.slot k).toNat > 4094 → step t = .fault (.memoryOutOfBounds (max (s.slot k).toNat 4096)))

/-- 1nnn sets `pc` to nnn and changes nothing else; at nnn = 0xFFF it is the next step that faults (R101). -/
def Obligations.JumpSetsPc : Prop :=
  ∀ nnn : Addr12, decode (wordNNN 0x1#4 nnn) = some (.jp nnn) ∧ ∀ s : State,
    ∃ t : State, exec (.jp nnn) s = .next t ∧ t.pc.toNat = nnn.toNat ∧ OnlyChanges [.pc] s t ∧
      (nnn.toNat = 0xFFF → step t = .fault (.memoryOutOfBounds 4096))

/-- 2nnn pushes: it faults when 16 return addresses are held, else the slot at `sp` receives `pc + 2`, `sp` goes up
by one, `pc` becomes nnn, and nothing else changes (R102). -/
def Obligations.CallPushesAndJumps : Prop :=
  ∀ nnn : Addr12, decode (wordNNN 0x2#4 nnn) = some (.call nnn) ∧ ∀ s : State,
    (s.sp.val = 16 → exec (.call nnn) s = .fault .stackOverflow) ∧
    ∀ k : Fin 16, s.sp.val = k.val →
      ∃ t : State, exec (.call nnn) s = .next t ∧ t.slot k = s.pc + 2#16 ∧
        (∀ j : Fin 16, j ≠ k → t.slot j = s.slot j) ∧ t.sp.val = k.val + 1 ∧ t.pc.toNat = nnn.toNat ∧
        OnlyChanges [.pc, .stack, .sp] s t

/-- Bnnn sets `pc` to nnn + V0, not masked to 12 bits and without a fault (R103; that the range is checked only at
the next fetch is the spec's decision D11, log entry 18). -/
def Obligations.JumpWithOffsetIsNotMasked : Prop :=
  ∀ nnn : Addr12, decode (wordNNN 0xB#4 nnn) = some (.jpV0 nnn) ∧ ∀ s : State,
    ∃ t : State, exec (.jpV0 nnn) s = .next t ∧ t.pc.toNat = nnn.toNat + (s.reg 0).toNat ∧ OnlyChanges [.pc] s t

/-- A call whose target holds 00EE, and the return, come back to the instruction after the call with `sp` and every
component but `pc` and the one slot as before the call (R104, an inference the spec marks as derived). -/
def Obligations.ReturnAfterCallComesBack : Prop :=
  ∀ (s : State) (nnn : Addr12) (k : Fin 16), s.pc.toNat ≤ 4094 → s.sp.val = k.val → nnn.toNat ≤ 4094 →
    s.wordAt s.pc.toNat = wordNNN 0x2#4 nnn → s.wordAt nnn.toNat = 0x00EE#16 →
    ∃ t u : State, step s = .next t ∧ step t = .next u ∧ u.pc = s.pc + 2#16 ∧ u.slot k = s.pc + 2#16 ∧
      (∀ j : Fin 16, j ≠ k → u.slot j = s.slot j) ∧ OnlyChanges [.pc, .stack] s u

/-- A jump to its own address leaves the whole state as it is, so any number of steps of it run without a fault (R101,
R206; that this is the customary end of a program is general knowledge, log entry 20). -/
def Obligations.JumpToItselfRunsForEver : Prop :=
  ∀ (n : Nat) (s : State) (nnn : Addr12), s.pc.toNat ≤ 4094 → nnn.toNat = s.pc.toNat →
    s.wordAt s.pc.toNat = wordNNN 0x1#4 nnn → Sys2Proof.core.run n s = .next s

/-! ### Skips -/

/-- 3xnn skips iff `V[x] = nn`, 4xnn iff not; each writes only `pc` (R110, R111). -/
def Obligations.SkipOnImmediate : Prop :=
  ∀ (x : Reg) (nn : Byte),
    decode (wordXNN 0x3#4 x nn) = some (.seImm x nn) ∧ decode (wordXNN 0x4#4 x nn) = some (.sneImm x nn) ∧
    ∀ s : State,
      (∃ t : State, exec (.seImm x nn) s = .next t ∧ OnlyChanges [.pc] s t ∧
        t.pc = if s.reg x = nn then s.pc + 4#16 else s.pc + 2#16) ∧
      (∃ t : State, exec (.sneImm x nn) s = .next t ∧ OnlyChanges [.pc] s t ∧
        t.pc = if s.reg x = nn then s.pc + 2#16 else s.pc + 4#16)

/-- 5xy0 skips iff `V[x] = V[y]`, 9xy0 iff not; with any other low digit the word is neither (R112, R113). -/
def Obligations.SkipOnRegisters : Prop :=
  ∀ x y : Reg,
    (∀ n : Fin 16, decode (wordXYN 0x5#4 x y n) = (if n = 0 then some (.seReg x y) else none) ∧
      decode (wordXYN 0x9#4 x y n) = (if n = 0 then some (.sneReg x y) else none)) ∧
    ∀ s : State,
      (∃ t : State, exec (.seReg x y) s = .next t ∧ OnlyChanges [.pc] s t ∧
        t.pc = if s.reg x = s.reg y then s.pc + 4#16 else s.pc + 2#16) ∧
      (∃ t : State, exec (.sneReg x y) s = .next t ∧ OnlyChanges [.pc] s t ∧
        t.pc = if s.reg x = s.reg y then s.pc + 2#16 else s.pc + 4#16)

/-- Ex9E skips iff the key of the low four bits of `V[x]` has a flag that is not zero, ExA1 iff it has not (R114 to
R116; the low four bits and the reading of the flag are the spec's decisions D17 and D18, log entry 14). -/
def Obligations.SkipOnKey : Prop :=
  ∀ (x k : Reg) (s : State), (s.reg x).toNat % 16 = k.val →
    (∃ t : State, exec (.skp x) s = .next t ∧ OnlyChanges [.pc] s t ∧
      t.pc = if s.key k = 0#8 then s.pc + 2#16 else s.pc + 4#16) ∧
    (∃ t : State, exec (.sknp x) s = .next t ∧ OnlyChanges [.pc] s t ∧
      t.pc = if s.key k = 0#8 then s.pc + 4#16 else s.pc + 2#16)

/-! ### Register load and ALU -/

/-- 6xnn: `V[x]` becomes nn, VF included where x = F; `pc` advances by 2 and nothing else changes (R120). -/
def Obligations.LoadImmediateSetsRegister : Prop :=
  ∀ (x : Reg) (nn : Byte), decode (wordXNN 0x6#4 x nn) = some (.ldImm x nn) ∧ ∀ s : State,
    ∃ t : State, exec (.ldImm x nn) s = .next t ∧ t.reg x = nn ∧ (∀ z : Reg, z ≠ x → t.reg z = s.reg z) ∧
      t.pc = s.pc + 2#16 ∧ OnlyChanges [.pc, .v] s t

/-- 7xnn: `V[x]` becomes the sum modulo 256, without a fault and without writing VF as a flag (R121; that VF is not
written is the spec's decision D8, log entry 13). -/
def Obligations.AddImmediateWraps : Prop :=
  ∀ (x : Reg) (nn : Byte), decode (wordXNN 0x7#4 x nn) = some (.addImm x nn) ∧ ∀ s : State,
    ∃ t : State, exec (.addImm x nn) s = .next t ∧ (t.reg x).toNat = ((s.reg x).toNat + nn.toNat) % 256 ∧
      (∀ z : Reg, z ≠ x → t.reg z = s.reg z) ∧ t.pc = s.pc + 2#16 ∧ OnlyChanges [.pc, .v] s t

/-- 8xy0 to 8xy3: each bit of `V[x]` becomes that of `V[y]`, or the OR, AND or XOR of the two; no other register
changes, VF included (R122 to R125; that VF is not written is the spec's decision D8, log entry 13). -/
def Obligations.AssignAndLogicWorkBitwise : Prop :=
  ∀ (x y : Reg) (s : State),
    (∃ t : State, exec (.ldReg x y) s = .next t ∧ (∀ b : Nat, (t.reg x).getLsbD b = (s.reg y).getLsbD b) ∧
      (∀ z : Reg, z ≠ x → t.reg z = s.reg z) ∧ t.pc = s.pc + 2#16 ∧ OnlyChanges [.pc, .v] s t) ∧
    (∃ t : State, exec (.orReg x y) s = .next t ∧
      (∀ b : Nat, (t.reg x).getLsbD b = ((s.reg x).getLsbD b || (s.reg y).getLsbD b)) ∧
      (∀ z : Reg, z ≠ x → t.reg z = s.reg z) ∧ t.pc = s.pc + 2#16 ∧ OnlyChanges [.pc, .v] s t) ∧
    (∃ t : State, exec (.andReg x y) s = .next t ∧
      (∀ b : Nat, (t.reg x).getLsbD b = ((s.reg x).getLsbD b && (s.reg y).getLsbD b)) ∧
      (∀ z : Reg, z ≠ x → t.reg z = s.reg z) ∧ t.pc = s.pc + 2#16 ∧ OnlyChanges [.pc, .v] s t) ∧
    (∃ t : State, exec (.xorReg x y) s = .next t ∧
      (∀ b : Nat, (t.reg x).getLsbD b = ((s.reg x).getLsbD b ^^ (s.reg y).getLsbD b)) ∧
      (∀ z : Reg, z ≠ x → t.reg z = s.reg z) ∧ t.pc = s.pc + 2#16 ∧ OnlyChanges [.pc, .v] s t)

/-- What a flag-writing ALU instruction leaves, when its result is `r` and its flag `f`: VF holds the flag also where
x = F, and every register but `V[x]` and VF is as it was (R22, R133). -/
def FlaggedEffect (x : Reg) (r f : Nat) (s t : State) : Prop :=
  (t.reg 15).toNat = f ∧ (x ≠ 15 → (t.reg x).toNat = r) ∧ (∀ z : Reg, z ≠ x → z ≠ 15 → t.reg z = s.reg z) ∧
    t.pc = s.pc + 2#16 ∧ OnlyChanges [.pc, .v] s t

/-- 8xy4: the sum modulo 256, and VF = 1 iff the exact sum exceeds 255 (R126). -/
def Obligations.AddRegistersSetsCarry : Prop :=
  ∀ x y : Reg, decode (wordXYN 0x8#4 x y 4) = some (.addReg x y) ∧ ∀ s : State,
    ∃ t : State, exec (.addReg x y) s = .next t ∧
      FlaggedEffect x (((s.reg x).toNat + (s.reg y).toNat) % 256)
        (if (s.reg x).toNat + (s.reg y).toNat > 255 then 1 else 0) s t

/-- 8xy5 and 8xy7: the difference modulo 256, and VF = 1 iff no borrow is needed, equality included (R127, R129; the
flag of SUBN and the equal case are the spec's decisions D9 and D10, log entry 13). -/
def Obligations.SubtractSetsNotBorrow : Prop :=
  ∀ (x y : Reg) (s : State),
    (∃ t : State, exec (.sub x y) s = .next t ∧
      FlaggedEffect x
        (if (s.reg x).toNat < (s.reg y).toNat then (s.reg x).toNat + 256 - (s.reg y).toNat
          else (s.reg x).toNat - (s.reg y).toNat)
        (if (s.reg x).toNat < (s.reg y).toNat then 0 else 1) s t) ∧
    (∃ t : State, exec (.subn x y) s = .next t ∧
      FlaggedEffect x
        (if (s.reg y).toNat < (s.reg x).toNat then (s.reg y).toNat + 256 - (s.reg x).toNat
          else (s.reg y).toNat - (s.reg x).toNat)
        (if (s.reg y).toNat < (s.reg x).toNat then 0 else 1) s t)

/-- 8xy6 and 8xyE move `V[x]` by one bit and put the bit shifted out into VF; under the other value of the parameter
`SHIFT_SRC` the source is `V[y]` (R128, R130; that the parameter is VX and that SHL sets VF are the spec's decisions
D7 and D9, log entries 3 and 13). -/
def Obligations.ShiftsMoveOneBit : Prop :=
  ∀ (x y : Reg) (s : State),
    (∃ t : State, exec (.shr x y) s = .next t ∧
      FlaggedEffect x ((s.reg x).toNat / 2) ((s.reg x).toNat % 2) s t) ∧
    (∃ t : State, exec (.shl x y) s = .next t ∧
      FlaggedEffect x ((s.reg x).toNat * 2 % 256) ((s.reg x).toNat / 128) s t) ∧
    (∃ t : State, shiftRightWith .vy x y s = .next t ∧
      FlaggedEffect x ((s.reg y).toNat / 2) ((s.reg y).toNat % 2) s t) ∧
    (∃ t : State, shiftLeftWith .vy x y s = .next t ∧
      FlaggedEffect x ((s.reg y).toNat * 2 % 256) ((s.reg y).toNat / 128) s t)

/-- Cxnn: `V[x]` becomes the drawn byte AND nn, whatever byte is drawn, and exactly one draw is consumed (R131; the
draw is the model's free value, log entries 1 and 2). -/
def Obligations.RandomIsTheMaskedDraw : Prop :=
  ∀ (x : Reg) (nn : Byte), decode (wordXNN 0xC#4 x nn) = some (.rnd x nn) ∧ ∀ s : State,
    ∃ t : State, exec (.rnd x nn) s = .next t ∧
      (∀ b : Nat, (t.reg x).getLsbD b = ((Config.randByte s.draws).getLsbD b && nn.getLsbD b)) ∧
      (nn = 0#8 → t.reg x = 0#8) ∧ t.draws = s.draws + 1 ∧ (∀ z : Reg, z ≠ x → t.reg z = s.reg z) ∧
      t.pc = s.pc + 2#16 ∧ OnlyChanges [.pc, .v, .draws] s t

/-! ### Index register and memory -/

/-- Annn: `I` becomes nnn; `pc` advances by 2 and nothing else changes (R140). -/
def Obligations.LoadIndexSetsI : Prop :=
  ∀ nnn : Addr12, decode (wordNNN 0xA#4 nnn) = some (.ldI nnn) ∧ ∀ s : State,
    ∃ t : State, exec (.ldI nnn) s = .next t ∧ t.i.toNat = nnn.toNat ∧ t.pc = s.pc + 2#16 ∧ OnlyChanges [.pc, .i] s t

/-- Fx1E: `I` becomes the sum modulo 65536, not masked to 12 bits, and VF is not written (R141; the latter is the
spec's decision D8, log entry 13). -/
def Obligations.AddToIndexWraps : Prop :=
  ∀ (x : Reg) (s : State),
    ∃ t : State, exec (.addI x) s = .next t ∧ t.i.toNat = (s.i.toNat + (s.reg x).toNat) % 65536 ∧
      t.pc = s.pc + 2#16 ∧ OnlyChanges [.pc, .i] s t

/-- Fx29: `I` becomes five times the whole byte `V[x]` (R142; that the byte is not masked is the spec's decision D21,
log entry 17). -/
def Obligations.GlyphAddressIsFiveTimes : Prop :=
  ∀ (x : Reg) (s : State),
    ∃ t : State, exec (.ldF x) s = .next t ∧ t.i.toNat = (s.reg x).toNat * 5 ∧ t.pc = s.pc + 2#16 ∧
      OnlyChanges [.pc, .i] s t

/-- Fx33: the hundreds, tens and ones of `V[x]` go to the three bytes at `I` and no other byte changes; where `I + 2`
exceeds 4095 it faults and writes none (R143; the fault's information is the spec's decision D2, log entry 21). -/
def Obligations.StoreDecimalDigits : Prop :=
  ∀ x : Reg, decode (wordXNN 0xF#4 x 0x33#8) = some (.ldB x) ∧ ∀ s : State,
    (s.i.toNat + 2 ≤ 4095 → ∃ t : State, exec (.ldB x) s = .next t ∧
      (t.byteAt s.i.toNat).toNat = (s.reg x).toNat / 100 ∧
      (t.byteAt (s.i.toNat + 1)).toNat = (s.reg x).toNat / 10 % 10 ∧
      (t.byteAt (s.i.toNat + 2)).toNat = (s.reg x).toNat % 10 ∧
      (∀ a : Nat, a < s.i.toNat ∨ s.i.toNat + 2 < a → t.byteAt a = s.byteAt a) ∧
      t.pc = s.pc + 2#16 ∧ OnlyChanges [.pc, .mem] s t) ∧
    (s.i.toNat + 2 > 4095 → exec (.ldB x) s = .fault (.memoryOutOfBounds (max s.i.toNat 4096)))

/-- Fx55: V0 to Vx go to the bytes from `I` on, no other byte changes, `I` stays; where `I + x` exceeds 4095 it faults
and writes none (R144; that `I` stays is the spec's decision D22, log entry 17). -/
def Obligations.StoreRegistersThroughX : Prop :=
  ∀ x : Reg, decode (wordXNN 0xF#4 x 0x55#8) = some (.stRegs x) ∧ ∀ s : State,
    (s.i.toNat + x.val ≤ 4095 → ∃ t : State, exec (.stRegs x) s = .next t ∧
      (∀ k : Reg, k.val ≤ x.val → t.byteAt (s.i.toNat + k.val) = s.reg k) ∧
      (∀ a : Nat, a < s.i.toNat ∨ s.i.toNat + x.val < a → t.byteAt a = s.byteAt a) ∧
      t.pc = s.pc + 2#16 ∧ OnlyChanges [.pc, .mem] s t) ∧
    (s.i.toNat + x.val > 4095 → exec (.stRegs x) s = .fault (.memoryOutOfBounds (max s.i.toNat 4096)))

/-- Fx65: V0 to Vx receive the bytes from `I` on, the registers above x and `I` stay; where `I + x` exceeds 4095 it
faults and writes none (R145; that `I` stays is the spec's decision D22, log entry 17). -/
def Obligations.LoadRegistersThroughX : Prop :=
  ∀ x : Reg, decode (wordXNN 0xF#4 x 0x65#8) = some (.ldRegs x) ∧ ∀ s : State,
    (s.i.toNat + x.val ≤ 4095 → ∃ t : State, exec (.ldRegs x) s = .next t ∧
      (∀ k : Reg, t.reg k = if k.val ≤ x.val then s.byteAt (s.i.toNat + k.val) else s.reg k) ∧
      t.pc = s.pc + 2#16 ∧ OnlyChanges [.pc, .v] s t) ∧
    (s.i.toNat + x.val > 4095 → exec (.ldRegs x) s = .fault (.memoryOutOfBounds (max s.i.toNat 4096)))

/-- Registers stored by Fx55 come back by Fx65 at the same `I`, whatever the registers held in between (R146, an
inference the spec marks as derived). -/
def Obligations.StoreThenLoadRecoversRegisters : Prop :=
  ∀ (x : Reg) (s u : State), s.i.toNat + x.val ≤ 4095 →
    ∃ t : State, exec (.stRegs x) s = .next t ∧
      (u.i = t.i → (∀ a : Nat, u.byteAt a = t.byteAt a) →
        ∃ w : State, exec (.ldRegs x) u = .next w ∧ w.i = s.i ∧ ∀ k : Reg, k.val ≤ x.val → w.reg k = s.reg k)

/-- A store into the instruction stream is what the very next fetch reads (R62, an inference the spec marks as
derived). -/
def Obligations.StoreIsSeenByNextFetch : Prop :=
  ∀ (x k l : Reg) (s : State), s.i.toNat + x.val ≤ 4095 → l.val = k.val + 1 → l.val ≤ x.val →
    (s.pc + 2#16).toNat = s.i.toNat + k.val →
    ∃ t : State, exec (.stRegs x) s = .next t ∧ fetch t = .ok (bytesWord (s.reg k) (s.reg l))

/-! ### Display -/

/-- 00E0: every cell becomes 0 and `dirty` 1; `pc` advances by 2 and nothing else changes (R150). -/
def Obligations.ClearScreenClearsEveryCell : Prop :=
  decode 0x00E0#16 = some .cls ∧ ∀ s : State,
    ∃ t : State, exec .cls s = .next t ∧ (∀ p : Nat, p < 2048 → t.cell p = false) ∧ t.dirty = true ∧
      t.pc = s.pc + 2#16 ∧ OnlyChanges [.pc, .fb, .dirty] s t

/-- What a completed draw leaves, by the detector's closed form: a cell is complemented iff a visible 1 bit of the
sprite lies on it, VF is 1 iff one of those cells was set, `dirty` is 1 (R153). -/
def DrawEffect (pol : EdgePolicy) (x y : Reg) (n : Fin 16) (s t : State) : Prop :=
  (∀ p : Nat, p < 2048 → (Touches pol x y n s p → t.cell p = !s.cell p) ∧
    (¬ Touches pol x y n s p → t.cell p = s.cell p)) ∧
  ((∃ p : Nat, p < 2048 ∧ Touches pol x y n s p ∧ s.cell p = true) → t.reg 15 = 1#8) ∧
  ((¬ ∃ p : Nat, p < 2048 ∧ Touches pol x y n s p ∧ s.cell p = true) → t.reg 15 = 0#8) ∧
  (∀ z : Reg, z ≠ 15 → t.reg z = s.reg z) ∧ t.dirty = true ∧ t.pc = s.pc + 2#16 ∧
  OnlyChanges [.pc, .v, .fb, .dirty] s t

/-- Dxyn's draw loop has the closed form of the collision detector, under the value taken for `EDGE_POLICY` and under
either value (R152, R153; the value wrap is the spec's decision D13, the bit order its D15, the row modulus its D14;
log entries 4 and 16). -/
def Obligations.DrawLoopIsTheCollisionDetector : Prop :=
  ∀ (x y : Reg) (n : Fin 16) (s : State), n.val = 0 ∨ s.i.toNat + n.val ≤ 4096 →
    (∃ t : State, exec (.drw x y n) s = .next t ∧ DrawEffect .wrap x y n s t) ∧
    ∀ pol : EdgePolicy, ∃ t : State, drawWith pol x y n s = .next t ∧ DrawEffect pol x y n s t

/-- Dxyn with rows past the last cell faults and draws none; with no rows it never faults, whatever `I` is, draws
nothing, clears VF and sets `dirty` (R152; the case n = 0 is the spec's decision D16, the fault's information its D2;
log entries 16 and 21). -/
def Obligations.DrawFaultsOnlyWithRowsOutOfRange : Prop :=
  ∀ (x y : Reg) (n : Fin 16) (s : State),
    (n.val > 0 → s.i.toNat + n.val > 4096 → exec (.drw x y n) s = .fault (.memoryOutOfBounds (max s.i.toNat 4096))) ∧
    (n.val = 0 → ∃ t : State, exec (.drw x y n) s = .next t ∧ (∀ p : Nat, t.cell p = s.cell p) ∧ t.reg 15 = 0#8 ∧
      t.dirty = true ∧ t.pc = s.pc + 2#16 ∧ OnlyChanges [.pc, .v, .dirty] s t)

/-- No cell is visited twice in one draw and every visited cell is one of the 2048 (R154, an inference the spec marks
as derived). -/
def Obligations.DrawVisitsNoCellTwice : Prop :=
  ∀ (pol : EdgePolicy) (x y : Reg) (n : Fin 16) (s : State),
    (spriteOf pol x y n s).Nodup ∧ ∀ p : Nat, p ∈ spriteOf pol x y n s → p < 2048

/-- The same draw twice restores every cell; if the touched cells were 0 before, the first leaves VF = 0 and the
second VF = 1 iff the sprite has a 1 bit. Either neither x nor y is F, or the first draw leaves VF as it was, so that
both draws see the same coordinates (R154, an inference the spec marks as derived; under wrap every pixel is visible,
D13, log entry 4). -/
def Obligations.DrawTwiceRestoresTheScreen : Prop :=
  ∀ (x y : Reg) (n : Fin 16) (s : State), n.val = 0 ∨ s.i.toNat + n.val ≤ 4096 →
    ∃ t : State, exec (.drw x y n) s = .next t ∧
      ((x ≠ 15 ∧ y ≠ 15) ∨ t.reg 15 = s.reg 15 →
        ∃ u : State, exec (.drw x y n) t = .next u ∧ (∀ p : Nat, p < 2048 → u.cell p = s.cell p) ∧
          ((∀ p : Nat, Touches .wrap x y n s p → s.cell p = false) →
            t.reg 15 = 0#8 ∧ ((∃ p : Nat, Touches .wrap x y n s p) → u.reg 15 = 1#8) ∧
            ((¬ ∃ p : Nat, Touches .wrap x y n s p) → u.reg 15 = 0#8)))

/-! ### Timers and the key wait -/

/-- Fx07 copies `DT` to `V[x]`, Fx15 `V[x]` to `DT`, Fx18 `V[x]` to `ST`; each advances `pc` by 2 and changes nothing
else (R160, R162, R163; which code does which is the spec's decision D20, log entry 15). -/
def Obligations.TimerInstructionsCopy : Prop :=
  ∀ (x : Reg) (s : State),
    (∃ t : State, exec (.ldVxDt x) s = .next t ∧ t.reg x = s.dt ∧ (∀ z : Reg, z ≠ x → t.reg z = s.reg z) ∧
      t.pc = s.pc + 2#16 ∧ OnlyChanges [.pc, .v] s t) ∧
    (∃ t : State, exec (.ldDtVx x) s = .next t ∧ t.dt = s.reg x ∧ t.pc = s.pc + 2#16 ∧ OnlyChanges [.pc, .dt] s t) ∧
    (∃ t : State, exec (.ldStVx x) s = .next t ∧ t.st = s.reg x ∧ t.pc = s.pc + 2#16 ∧ OnlyChanges [.pc, .st] s t)

/-- Fx0A: while no key is pressed nothing changes; otherwise `V[x]` becomes the lowest pressed code and `pc` advances
by 2 (R161; the level test and the lowest code are the spec's decision D19, log entries 8 and 14). -/
def Obligations.KeyWaitTakesLowestPressedKey : Prop :=
  ∀ (x : Reg) (s : State),
    ((∀ k : Reg, s.key k = 0#8) → exec (.ldVxK x) s = .next s) ∧
    ∀ k : Reg, s.key k ≠ 0#8 → (∀ j : Reg, j < k → s.key j = 0#8) →
      ∃ t : State, exec (.ldVxK x) s = .next t ∧ (t.reg x).toNat = k.val ∧ (∀ z : Reg, z ≠ x → t.reg z = s.reg z) ∧
        t.pc = s.pc + 2#16 ∧ OnlyChanges [.pc, .v] s t

/-! ### The other transactions -/

/-- TICK decrements each timer that is not zero, leaves one at zero there, and changes nothing else (R184). -/
def Obligations.TickDecrementsRunningTimers : Prop :=
  ∀ s : State, ∃ t : State, perform .tick s = (.silent, t) ∧ t.dt.toNat = s.dt.toNat - 1 ∧
    t.st.toNat = s.st.toNat - 1 ∧ OnlyChanges [.dt, .st] s t

/-- KEYS(k, b) sets the one flag k to any byte; FRAME_ACK clears `dirty`; neither changes anything else (R185,
R186). -/
def Obligations.KeysAndFrameAckWriteOnlyTheirs : Prop :=
  ∀ s : State,
    (∀ (k : Reg) (b : Byte), ∃ t : State, perform (.keys k b) s = (.silent, t) ∧ t.key k = b ∧
      (∀ j : Reg, j ≠ k → t.key j = s.key j) ∧ OnlyChanges [.keys] s t) ∧
    ∃ t : State, perform .frameAck s = (.silent, t) ∧ t.dirty = false ∧ OnlyChanges [.dirty] s t

/-- LOAD copies an image of at most 3584 bytes to the cells from 0x200 on and no other; a longer image is refused with
its length and nothing is written (R204; the latter is the spec's decision D33, log entry 22). -/
def Obligations.LoadCopiesTheImage : Prop :=
  ∀ (bytes : List Byte) (s : State),
    (bytes.length ≤ 3584 → ∃ t : State, perform (.load bytes) s = (.ok, t) ∧
      (∀ (k : Nat) (h : k < bytes.length), t.byteAt (0x200 + k) = bytes[k]) ∧
      (∀ a : Nat, a < 0x200 ∨ 0x200 + bytes.length ≤ a → t.byteAt a = s.byteAt a) ∧ OnlyChanges [.mem] s t) ∧
    (bytes.length > 3584 → perform (.load bytes) s = (.fault (.programTooLarge bytes.length), s))

/-- The standard font, one glyph a number of 40 bits, its first row in the high byte (R202). -/
def fontGlyphs : List Nat :=
  [0xF0909090F0, 0x2060202070, 0xF010F080F0, 0xF010F010F0, 0x9090F01010, 0xF080F010F0, 0xF080F090F0, 0xF010204040] ++
  [0xF090F090F0, 0xF090F010F0, 0xF090F09090, 0xE090E090E0, 0xF0808080F0, 0xE0909090E0, 0xF080F080F0, 0xF080F08080]

/-- RESET from any state leaves the font at 0x000 to 0x04F, every other byte of memory 0, `pc` 0x200 and every other
component 0 (R34, R200, R202; the font's bytes are the spec's parameter, D24, log entry 5; `dirty` is its decision
D25, log entry 22; the model's draw count goes on, log entry 2). -/
def Obligations.ResetLeavesTheStatedValues : Prop :=
  ∀ s : State, ∃ t : State, perform .reset s = (.silent, t) ∧
    (∀ (d : Fin 16) (r : Fin 5),
      (t.byteAt (5 * d.val + r.val)).toNat = fontGlyphs.getD d.val 0 / 256 ^ (4 - r.val) % 256) ∧
    (∀ a : Nat, 80 ≤ a → t.byteAt a = 0#8) ∧ (∀ x : Reg, t.reg x = 0#8) ∧ t.i = 0#16 ∧ t.pc = 0x200#16 ∧
    (∀ k : Fin 16, t.slot k = 0#16) ∧ t.sp.val = 0 ∧ t.dt = 0#8 ∧ t.st = 0#8 ∧ (∀ p : Nat, t.cell p = false) ∧
    t.dirty = false ∧ (∀ k : Reg, t.key k = 0#8) ∧ t.draws = s.draws

/-- After RESET and before any LOAD a STEP raises `DecodeFault(0x0000)` (R201, an inference the spec marks as
derived). -/
def Obligations.FirstStepAfterResetFaults : Prop :=
  step State.reset = .fault (.decodeFault 0x0000#16)

/-! ### Rules of the whole machine -/

/-- No instruction changes a component that R20 does not list it as a writer of (R20; `draws` is the model's own, log
entry 2). -/
def Obligations.ComponentsChangeOnlyByTheirWriters : Prop :=
  ∀ (i : Instr) (s t : State), exec i s = .next t → OnlyChanges (mayWrite i) s t

/-- No instruction changes a general register but its named destination, the registers up to x for Fx65, and VF for
the six flag writers (R21, R22, R133; which instructions write VF is the spec's decision D8, D9, log entry 13). -/
def Obligations.RegistersChangeOnlyAsNamed : Prop :=
  ∀ (i : Instr) (s t : State) (z : Reg), exec i s = .next t → mayWriteReg i z = false → t.reg z = s.reg z

/-- The six flag writers leave VF at 0 or 1, whatever x and y are (R22, R133; log entry 13). -/
def Obligations.FlagWritersLeaveZeroOrOne : Prop :=
  ∀ (i : Instr) (s t : State), writesFlag i = true → exec i s = .next t → t.reg 15 = 0#8 ∨ t.reg 15 = 1#8

/-- A byte of memory changes only where an instruction stores: Fx33 the three bytes at `I`, Fx55 the x + 1 bytes at
`I`, every other instruction none (R20, R55; the statements on Fx33 and Fx55 say what is stored). -/
def Obligations.MemoryChangesOnlyWhereStored : Prop :=
  ∀ (i : Instr) (s t : State) (a : Nat), exec i s = .next t →
    a < s.i.toNat ∨ s.i.toNat + storeLength i ≤ a → t.byteAt a = s.byteAt a

/-- The new `pc` of each instruction, row by row of the advance table (R26). For 00EE it is the popped slot, the one
below `sp`; on an empty stack 00EE faults and the table is not asked. -/
def newPc (i : Instr) (s : State) : Option Word :=
  match i with
  | .jp nnn | .call nnn => some (BitVec.ofNat 16 nnn.toNat)
  | .jpV0 nnn => some (BitVec.ofNat 16 (nnn.toNat + (s.reg 0).toNat))
  | .ret => s.stack[s.sp.val - 1]?
  | .seImm x nn => some (if s.reg x = nn then s.pc + 4#16 else s.pc + 2#16)
  | .sneImm x nn => some (if s.reg x ≠ nn then s.pc + 4#16 else s.pc + 2#16)
  | .seReg x y => some (if s.reg x = s.reg y then s.pc + 4#16 else s.pc + 2#16)
  | .sneReg x y => some (if s.reg x ≠ s.reg y then s.pc + 4#16 else s.pc + 2#16)
  | .skp x => some (if s.pressed (keyOf (s.reg x)) = true then s.pc + 4#16 else s.pc + 2#16)
  | .sknp x => some (if s.pressed (keyOf (s.reg x)) = false then s.pc + 4#16 else s.pc + 2#16)
  | .ldVxK _ => some (if ∃ k : Reg, s.pressed k = true then s.pc + 2#16 else s.pc)
  | .cls | .ldImm _ _ | .addImm _ _ | .ldReg _ _ | .orReg _ _ | .andReg _ _ | .xorReg _ _ | .addReg _ _ | .sub _ _
  | .shr _ _ | .subn _ _ | .shl _ _ | .ldI _ | .rnd _ _ | .drw _ _ _ | .ldVxDt _ | .ldDtVx _ | .ldStVx _ | .addI _
  | .ldF _ | .ldB _ | .stRegs _ | .ldRegs _ => some (s.pc + 2#16)

/-- `pc` advances exactly as the table of R26 says, for every instruction; and a step that faults leaves it
unchanged (R26). -/
def Obligations.PcAdvancesAsTabulated : Prop :=
  (∀ (i : Instr) (s t : State), exec i s = .next t → newPc i s = some t.pc) ∧
    ∀ (s : State) (f : Fault), (perform .step s).1 = .fault f → (perform .step s).2.pc = s.pc

/-- No instruction reads `dirty` or `ST`: changing them changes neither whether an instruction faults, and how, nor
anything it leaves in another component (R30, R32, R39, R214). -/
def Obligations.NoInstructionReadsDirtyOrSoundTimer : Prop :=
  ∀ (i : Instr) (s : State) (d : Bool) (b : Byte),
    (∀ f : Fault, exec i s = .fault f ↔ exec i ((s.setDirty d).setSt b) = .fault f) ∧
    ∀ t : State, exec i s = .next t → ∃ u : State, exec i ((s.setDirty d).setSt b) = .next u ∧
      OnlyChanges [.dirty, .st] t u

/-! ### The invariant -/

/-- The state after RESET meets the invariant of the reachable states (R34, R36; the canonical form of memory in it is
the model's own, log entry 10). -/
def Obligations.ResetMeetsTheInvariant : Prop := State.reset.Inv

/-- Every step keeps the invariant: memory stays canonical and inside its 4096 cells, `pc` at most 0x10FE, every
return address held at most 0x1000 (R27, R36, inferences the spec marks as derived; the canonical form is the model's
own, log entry 10). -/
def Obligations.EveryStepKeepsTheInvariant : Prop :=
  ∀ s t : State, s.Inv → step s = .next t → t.Inv

/-- The invariant holds after any sequence of transactions, in any order, from any state that meets it (R36, R61,
R210; the bounds are inferences the spec marks as derived, the canonical form of memory is the model's own, log entry
10). -/
def Obligations.EveryRunKeepsTheInvariant : Prop :=
  ∀ (ts : List Transaction) (s : State), s.Inv → (runAll ts s).Inv
end

