-- ==== Sys2Proof/Laws/Decode.lean ====
section
/-! SUPPORT. The fields of a word put together by the encoder's three formats (30_encoding.md R81), and that the
fields of a word put it together again. -/

namespace Sys2Proof

/-! ### Format NNN -/

@[simp] theorem fieldFamily_wordNNN (f : BitVec 4) (nnn : Addr12) : fieldFamily (wordNNN f nnn) = f := by
  apply BitVec.eq_of_getLsbD_eq; intro k hk
  simp only [fieldFamily, wordNNN, BitVec.getLsbD_extractLsb', BitVec.getLsbD_append]
  simp [hk, show ¬ (12 + k < 12) by omega]

@[simp] theorem fieldNNN_wordNNN (f : BitVec 4) (nnn : Addr12) : fieldNNN (wordNNN f nnn) = nnn := by
  apply BitVec.eq_of_getLsbD_eq; intro k hk
  simp only [fieldNNN, wordNNN, BitVec.getLsbD_extractLsb', BitVec.getLsbD_append]
  simp [hk]

/-! ### Formats XNN and XSS -/

@[simp] theorem fieldFamily_wordXNN (f : BitVec 4) (x : Reg) (nn : Byte) : fieldFamily (wordXNN f x nn) = f := by
  apply BitVec.eq_of_getLsbD_eq; intro k hk
  simp only [fieldFamily, wordXNN, BitVec.getLsbD_extractLsb', BitVec.getLsbD_append]
  simp [hk, show ¬ (12 + k < 8) by omega, show ¬ (12 + k - 8 < 4) by omega, show 12 + k - 8 - 4 = k by omega]

@[simp] theorem fieldX_wordXNN (f : BitVec 4) (x : Reg) (nn : Byte) : fieldX (wordXNN f x nn) = x := by
  have h : (wordXNN f x nn).extractLsb' 8 4 = nib x := by
    apply BitVec.eq_of_getLsbD_eq; intro k hk
    simp only [wordXNN, BitVec.getLsbD_extractLsb', BitVec.getLsbD_append]
    simp [hk, show ¬ (8 + k < 8) by omega]
  simp [fieldX, h]

@[simp] theorem fieldNN_wordXNN (f : BitVec 4) (x : Reg) (nn : Byte) : fieldNN (wordXNN f x nn) = nn := by
  apply BitVec.eq_of_getLsbD_eq; intro k hk
  simp only [fieldNN, wordXNN, BitVec.getLsbD_extractLsb', BitVec.getLsbD_append]
  simp [hk]

/-! ### Formats XYN and XYS -/

@[simp] theorem fieldFamily_wordXYN (f : BitVec 4) (x y : Reg) (n : Fin 16) : fieldFamily (wordXYN f x y n) = f := by
  apply BitVec.eq_of_getLsbD_eq; intro k hk
  simp only [fieldFamily, wordXYN, BitVec.getLsbD_extractLsb', BitVec.getLsbD_append]
  simp [hk, show ¬ (12 + k < 4) by omega, show ¬ (12 + k - 4 < 4) by omega, show ¬ (12 + k - 4 - 4 < 4) by omega,
    show 12 + k - 4 - 4 - 4 = k by omega]

@[simp] theorem fieldX_wordXYN (f : BitVec 4) (x y : Reg) (n : Fin 16) : fieldX (wordXYN f x y n) = x := by
  have h : (wordXYN f x y n).extractLsb' 8 4 = nib x := by
    apply BitVec.eq_of_getLsbD_eq; intro k hk
    simp only [wordXYN, BitVec.getLsbD_extractLsb', BitVec.getLsbD_append]
    simp [hk, show ¬ (8 + k < 4) by omega, show ¬ (8 + k - 4 < 4) by omega, show 8 + k - 4 - 4 = k by omega]
  simp [fieldX, h]

@[simp] theorem fieldY_wordXYN (f : BitVec 4) (x y : Reg) (n : Fin 16) : fieldY (wordXYN f x y n) = y := by
  have h : (wordXYN f x y n).extractLsb' 4 4 = nib y := by
    apply BitVec.eq_of_getLsbD_eq; intro k hk
    simp only [wordXYN, BitVec.getLsbD_extractLsb', BitVec.getLsbD_append]
    simp [hk, show ¬ (4 + k < 4) by omega]
  simp [fieldY, h]

@[simp] theorem fieldN_wordXYN (f : BitVec 4) (x y : Reg) (n : Fin 16) : fieldN (wordXYN f x y n) = n := by
  have h : (wordXYN f x y n).extractLsb' 0 4 = nib n := by
    apply BitVec.eq_of_getLsbD_eq; intro k hk
    simp only [wordXYN, BitVec.getLsbD_extractLsb', BitVec.getLsbD_append]
    simp [hk]
  simp [fieldN, h]

/-! ### A word from its fields -/

/-- A word is its family and its address field. -/
theorem wordNNN_fields (w : Word) : wordNNN (fieldFamily w) (fieldNNN w) = w := by
  apply BitVec.eq_of_getLsbD_eq; intro k hk
  simp only [fieldFamily, fieldNNN, wordNNN, BitVec.getLsbD_extractLsb', BitVec.getLsbD_append]
  by_cases h : k < 12
  · simp [h]
  · simp [h, show k - 12 < 4 by omega, show 12 + (k - 12) = k by omega]

/-- A word is its family, its register field and its 8-bit field. -/
theorem wordXNN_fields (w : Word) : wordXNN (fieldFamily w) (fieldX w) (fieldNN w) = w := by
  apply BitVec.eq_of_getLsbD_eq; intro k hk
  simp only [fieldFamily, fieldX, fieldNN, wordXNN, nib_unnib, BitVec.getLsbD_extractLsb', BitVec.getLsbD_append]
  by_cases h : k < 8
  · simp [h]
  · by_cases h2 : k - 8 < 4
    · simp [h, h2, show 8 + (k - 8) = k by omega]
    · simp [h, h2, show k - 8 - 4 < 4 by omega, show 12 + (k - 8 - 4) = k by omega]

/-- A word is its four digits. -/
theorem wordXYN_fields (w : Word) : wordXYN (fieldFamily w) (fieldX w) (fieldY w) (fieldN w) = w := by
  apply BitVec.eq_of_getLsbD_eq; intro k hk
  simp only [fieldFamily, fieldX, fieldY, fieldN, wordXYN, nib_unnib, BitVec.getLsbD_extractLsb',
    BitVec.getLsbD_append]
  by_cases h : k < 4
  · simp [h]
  · by_cases h2 : k - 4 < 4
    · simp [h, h2, show 4 + (k - 4) = k by omega]
    · by_cases h3 : k - 4 - 4 < 4
      · simp [h, h2, h3, show 8 + (k - 4 - 4) = k by omega]
      · simp [h, h2, h3, show k - 4 - 4 - 4 < 4 by omega, show 12 + (k - 4 - 4 - 4) = k by omega]

end Sys2Proof
end

