-- ==== Sys2Proof/Laws/State.lean ====
section
/-! SUPPORT. What each update of the state does to each component and to each reader, all true by unfolding, so that no
proof unfolds a record update; and what a reader sees of the component just written. -/

namespace Sys2Proof.Machine

/-! ### The derived updates in terms of the basic ones -/

@[simp] theorem State.advance_eq (s : State) : s.advance = s.setPc s.pcNext := rfl
@[simp] theorem State.pcNext_eq (s : State) : s.pcNext = s.pc + 2#16 := rfl
@[simp] theorem State.skipIf_eq (s : State) (c : Bool) : s.skipIf c = s.setPc (if c then s.pc + 4#16 else s.pcNext) := rfl
@[simp] theorem State.consumeDraw_eq (s : State) : s.consumeDraw = s.setDraws (s.draws + 1) := rfl

/-! ### `setReg` -/

@[simp] theorem State.setReg_mem (s : State) (x : Reg) (b : Byte) : (s.setReg x b).mem = s.mem := rfl
@[simp] theorem State.setReg_v (s : State) (x : Reg) (b : Byte) : (s.setReg x b).v = s.v.set x.val b x.isLt := rfl
@[simp] theorem State.setReg_i (s : State) (x : Reg) (b : Byte) : (s.setReg x b).i = s.i := rfl
@[simp] theorem State.setReg_pc (s : State) (x : Reg) (b : Byte) : (s.setReg x b).pc = s.pc := rfl
@[simp] theorem State.setReg_stack (s : State) (x : Reg) (b : Byte) : (s.setReg x b).stack = s.stack := rfl
@[simp] theorem State.setReg_sp (s : State) (x : Reg) (b : Byte) : (s.setReg x b).sp = s.sp := rfl
@[simp] theorem State.setReg_dt (s : State) (x : Reg) (b : Byte) : (s.setReg x b).dt = s.dt := rfl
@[simp] theorem State.setReg_st (s : State) (x : Reg) (b : Byte) : (s.setReg x b).st = s.st := rfl
@[simp] theorem State.setReg_fb (s : State) (x : Reg) (b : Byte) : (s.setReg x b).fb = s.fb := rfl
@[simp] theorem State.setReg_dirty (s : State) (x : Reg) (b : Byte) : (s.setReg x b).dirty = s.dirty := rfl
@[simp] theorem State.setReg_keys (s : State) (x : Reg) (b : Byte) : (s.setReg x b).keys = s.keys := rfl
@[simp] theorem State.setReg_draws (s : State) (x : Reg) (b : Byte) : (s.setReg x b).draws = s.draws := rfl
@[simp] theorem State.setReg_byteAt (s : State) (x : Reg) (b : Byte) (a : Nat) : (s.setReg x b).byteAt a = s.byteAt a := rfl
@[simp] theorem State.setReg_slot (s : State) (x : Reg) (b : Byte) (j : Fin 16) : (s.setReg x b).slot j = s.slot j := rfl
@[simp] theorem State.setReg_key (s : State) (x : Reg) (b : Byte) (j : Reg) : (s.setReg x b).key j = s.key j := rfl
@[simp] theorem State.setReg_cell (s : State) (x : Reg) (b : Byte) (p : Nat) : (s.setReg x b).cell p = s.cell p := rfl

/-! ### `setRegs` -/

@[simp] theorem State.setRegs_mem (s : State) (w : Vector Byte 16) : (s.setRegs w).mem = s.mem := rfl
@[simp] theorem State.setRegs_v (s : State) (w : Vector Byte 16) : (s.setRegs w).v = w := rfl
@[simp] theorem State.setRegs_i (s : State) (w : Vector Byte 16) : (s.setRegs w).i = s.i := rfl
@[simp] theorem State.setRegs_pc (s : State) (w : Vector Byte 16) : (s.setRegs w).pc = s.pc := rfl
@[simp] theorem State.setRegs_stack (s : State) (w : Vector Byte 16) : (s.setRegs w).stack = s.stack := rfl
@[simp] theorem State.setRegs_sp (s : State) (w : Vector Byte 16) : (s.setRegs w).sp = s.sp := rfl
@[simp] theorem State.setRegs_dt (s : State) (w : Vector Byte 16) : (s.setRegs w).dt = s.dt := rfl
@[simp] theorem State.setRegs_st (s : State) (w : Vector Byte 16) : (s.setRegs w).st = s.st := rfl
@[simp] theorem State.setRegs_fb (s : State) (w : Vector Byte 16) : (s.setRegs w).fb = s.fb := rfl
@[simp] theorem State.setRegs_dirty (s : State) (w : Vector Byte 16) : (s.setRegs w).dirty = s.dirty := rfl
@[simp] theorem State.setRegs_keys (s : State) (w : Vector Byte 16) : (s.setRegs w).keys = s.keys := rfl
@[simp] theorem State.setRegs_draws (s : State) (w : Vector Byte 16) : (s.setRegs w).draws = s.draws := rfl
@[simp] theorem State.setRegs_byteAt (s : State) (w : Vector Byte 16) (a : Nat) : (s.setRegs w).byteAt a = s.byteAt a := rfl
@[simp] theorem State.setRegs_slot (s : State) (w : Vector Byte 16) (j : Fin 16) : (s.setRegs w).slot j = s.slot j := rfl
@[simp] theorem State.setRegs_key (s : State) (w : Vector Byte 16) (j : Reg) : (s.setRegs w).key j = s.key j := rfl
@[simp] theorem State.setRegs_cell (s : State) (w : Vector Byte 16) (p : Nat) : (s.setRegs w).cell p = s.cell p := rfl

/-! ### `setI` -/

@[simp] theorem State.setI_mem (s : State) (w : Word) : (s.setI w).mem = s.mem := rfl
@[simp] theorem State.setI_v (s : State) (w : Word) : (s.setI w).v = s.v := rfl
@[simp] theorem State.setI_i (s : State) (w : Word) : (s.setI w).i = w := rfl
@[simp] theorem State.setI_pc (s : State) (w : Word) : (s.setI w).pc = s.pc := rfl
@[simp] theorem State.setI_stack (s : State) (w : Word) : (s.setI w).stack = s.stack := rfl
@[simp] theorem State.setI_sp (s : State) (w : Word) : (s.setI w).sp = s.sp := rfl
@[simp] theorem State.setI_dt (s : State) (w : Word) : (s.setI w).dt = s.dt := rfl
@[simp] theorem State.setI_st (s : State) (w : Word) : (s.setI w).st = s.st := rfl
@[simp] theorem State.setI_fb (s : State) (w : Word) : (s.setI w).fb = s.fb := rfl
@[simp] theorem State.setI_dirty (s : State) (w : Word) : (s.setI w).dirty = s.dirty := rfl
@[simp] theorem State.setI_keys (s : State) (w : Word) : (s.setI w).keys = s.keys := rfl
@[simp] theorem State.setI_draws (s : State) (w : Word) : (s.setI w).draws = s.draws := rfl
@[simp] theorem State.setI_byteAt (s : State) (w : Word) (a : Nat) : (s.setI w).byteAt a = s.byteAt a := rfl
@[simp] theorem State.setI_reg (s : State) (w : Word) (z : Reg) : (s.setI w).reg z = s.reg z := rfl
@[simp] theorem State.setI_slot (s : State) (w : Word) (j : Fin 16) : (s.setI w).slot j = s.slot j := rfl
@[simp] theorem State.setI_key (s : State) (w : Word) (j : Reg) : (s.setI w).key j = s.key j := rfl
@[simp] theorem State.setI_cell (s : State) (w : Word) (p : Nat) : (s.setI w).cell p = s.cell p := rfl

/-! ### `setPc` -/

@[simp] theorem State.setPc_mem (s : State) (w : Word) : (s.setPc w).mem = s.mem := rfl
@[simp] theorem State.setPc_v (s : State) (w : Word) : (s.setPc w).v = s.v := rfl
@[simp] theorem State.setPc_i (s : State) (w : Word) : (s.setPc w).i = s.i := rfl
@[simp] theorem State.setPc_pc (s : State) (w : Word) : (s.setPc w).pc = w := rfl
@[simp] theorem State.setPc_stack (s : State) (w : Word) : (s.setPc w).stack = s.stack := rfl
@[simp] theorem State.setPc_sp (s : State) (w : Word) : (s.setPc w).sp = s.sp := rfl
@[simp] theorem State.setPc_dt (s : State) (w : Word) : (s.setPc w).dt = s.dt := rfl
@[simp] theorem State.setPc_st (s : State) (w : Word) : (s.setPc w).st = s.st := rfl
@[simp] theorem State.setPc_fb (s : State) (w : Word) : (s.setPc w).fb = s.fb := rfl
@[simp] theorem State.setPc_dirty (s : State) (w : Word) : (s.setPc w).dirty = s.dirty := rfl
@[simp] theorem State.setPc_keys (s : State) (w : Word) : (s.setPc w).keys = s.keys := rfl
@[simp] theorem State.setPc_draws (s : State) (w : Word) : (s.setPc w).draws = s.draws := rfl
@[simp] theorem State.setPc_byteAt (s : State) (w : Word) (a : Nat) : (s.setPc w).byteAt a = s.byteAt a := rfl
@[simp] theorem State.setPc_reg (s : State) (w : Word) (z : Reg) : (s.setPc w).reg z = s.reg z := rfl
@[simp] theorem State.setPc_slot (s : State) (w : Word) (j : Fin 16) : (s.setPc w).slot j = s.slot j := rfl
@[simp] theorem State.setPc_key (s : State) (w : Word) (j : Reg) : (s.setPc w).key j = s.key j := rfl
@[simp] theorem State.setPc_cell (s : State) (w : Word) (p : Nat) : (s.setPc w).cell p = s.cell p := rfl

/-! ### `setMem` -/

@[simp] theorem State.setMem_mem (s : State) (m : Memory) : (s.setMem m).mem = m := rfl
@[simp] theorem State.setMem_v (s : State) (m : Memory) : (s.setMem m).v = s.v := rfl
@[simp] theorem State.setMem_i (s : State) (m : Memory) : (s.setMem m).i = s.i := rfl
@[simp] theorem State.setMem_pc (s : State) (m : Memory) : (s.setMem m).pc = s.pc := rfl
@[simp] theorem State.setMem_stack (s : State) (m : Memory) : (s.setMem m).stack = s.stack := rfl
@[simp] theorem State.setMem_sp (s : State) (m : Memory) : (s.setMem m).sp = s.sp := rfl
@[simp] theorem State.setMem_dt (s : State) (m : Memory) : (s.setMem m).dt = s.dt := rfl
@[simp] theorem State.setMem_st (s : State) (m : Memory) : (s.setMem m).st = s.st := rfl
@[simp] theorem State.setMem_fb (s : State) (m : Memory) : (s.setMem m).fb = s.fb := rfl
@[simp] theorem State.setMem_dirty (s : State) (m : Memory) : (s.setMem m).dirty = s.dirty := rfl
@[simp] theorem State.setMem_keys (s : State) (m : Memory) : (s.setMem m).keys = s.keys := rfl
@[simp] theorem State.setMem_draws (s : State) (m : Memory) : (s.setMem m).draws = s.draws := rfl
@[simp] theorem State.setMem_reg (s : State) (m : Memory) (z : Reg) : (s.setMem m).reg z = s.reg z := rfl
@[simp] theorem State.setMem_slot (s : State) (m : Memory) (j : Fin 16) : (s.setMem m).slot j = s.slot j := rfl
@[simp] theorem State.setMem_key (s : State) (m : Memory) (j : Reg) : (s.setMem m).key j = s.key j := rfl
@[simp] theorem State.setMem_cell (s : State) (m : Memory) (p : Nat) : (s.setMem m).cell p = s.cell p := rfl

/-! ### `setSlot` -/

@[simp] theorem State.setSlot_mem (s : State) (k : Fin 16) (w : Word) : (s.setSlot k w).mem = s.mem := rfl
@[simp] theorem State.setSlot_v (s : State) (k : Fin 16) (w : Word) : (s.setSlot k w).v = s.v := rfl
@[simp] theorem State.setSlot_i (s : State) (k : Fin 16) (w : Word) : (s.setSlot k w).i = s.i := rfl
@[simp] theorem State.setSlot_pc (s : State) (k : Fin 16) (w : Word) : (s.setSlot k w).pc = s.pc := rfl
@[simp] theorem State.setSlot_stack (s : State) (k : Fin 16) (w : Word) : (s.setSlot k w).stack = s.stack.set k.val w k.isLt := rfl
@[simp] theorem State.setSlot_sp (s : State) (k : Fin 16) (w : Word) : (s.setSlot k w).sp = s.sp := rfl
@[simp] theorem State.setSlot_dt (s : State) (k : Fin 16) (w : Word) : (s.setSlot k w).dt = s.dt := rfl
@[simp] theorem State.setSlot_st (s : State) (k : Fin 16) (w : Word) : (s.setSlot k w).st = s.st := rfl
@[simp] theorem State.setSlot_fb (s : State) (k : Fin 16) (w : Word) : (s.setSlot k w).fb = s.fb := rfl
@[simp] theorem State.setSlot_dirty (s : State) (k : Fin 16) (w : Word) : (s.setSlot k w).dirty = s.dirty := rfl
@[simp] theorem State.setSlot_keys (s : State) (k : Fin 16) (w : Word) : (s.setSlot k w).keys = s.keys := rfl
@[simp] theorem State.setSlot_draws (s : State) (k : Fin 16) (w : Word) : (s.setSlot k w).draws = s.draws := rfl
@[simp] theorem State.setSlot_byteAt (s : State) (k : Fin 16) (w : Word) (a : Nat) : (s.setSlot k w).byteAt a = s.byteAt a := rfl
@[simp] theorem State.setSlot_reg (s : State) (k : Fin 16) (w : Word) (z : Reg) : (s.setSlot k w).reg z = s.reg z := rfl
@[simp] theorem State.setSlot_key (s : State) (k : Fin 16) (w : Word) (j : Reg) : (s.setSlot k w).key j = s.key j := rfl
@[simp] theorem State.setSlot_cell (s : State) (k : Fin 16) (w : Word) (p : Nat) : (s.setSlot k w).cell p = s.cell p := rfl

/-! ### `setSp` -/

@[simp] theorem State.setSp_mem (s : State) (n : Fin 17) : (s.setSp n).mem = s.mem := rfl
@[simp] theorem State.setSp_v (s : State) (n : Fin 17) : (s.setSp n).v = s.v := rfl
@[simp] theorem State.setSp_i (s : State) (n : Fin 17) : (s.setSp n).i = s.i := rfl
@[simp] theorem State.setSp_pc (s : State) (n : Fin 17) : (s.setSp n).pc = s.pc := rfl
@[simp] theorem State.setSp_stack (s : State) (n : Fin 17) : (s.setSp n).stack = s.stack := rfl
@[simp] theorem State.setSp_sp (s : State) (n : Fin 17) : (s.setSp n).sp = n := rfl
@[simp] theorem State.setSp_dt (s : State) (n : Fin 17) : (s.setSp n).dt = s.dt := rfl
@[simp] theorem State.setSp_st (s : State) (n : Fin 17) : (s.setSp n).st = s.st := rfl
@[simp] theorem State.setSp_fb (s : State) (n : Fin 17) : (s.setSp n).fb = s.fb := rfl
@[simp] theorem State.setSp_dirty (s : State) (n : Fin 17) : (s.setSp n).dirty = s.dirty := rfl
@[simp] theorem State.setSp_keys (s : State) (n : Fin 17) : (s.setSp n).keys = s.keys := rfl
@[simp] theorem State.setSp_draws (s : State) (n : Fin 17) : (s.setSp n).draws = s.draws := rfl
@[simp] theorem State.setSp_byteAt (s : State) (n : Fin 17) (a : Nat) : (s.setSp n).byteAt a = s.byteAt a := rfl
@[simp] theorem State.setSp_reg (s : State) (n : Fin 17) (z : Reg) : (s.setSp n).reg z = s.reg z := rfl
@[simp] theorem State.setSp_slot (s : State) (n : Fin 17) (j : Fin 16) : (s.setSp n).slot j = s.slot j := rfl
@[simp] theorem State.setSp_key (s : State) (n : Fin 17) (j : Reg) : (s.setSp n).key j = s.key j := rfl
@[simp] theorem State.setSp_cell (s : State) (n : Fin 17) (p : Nat) : (s.setSp n).cell p = s.cell p := rfl

/-! ### `setDt` -/

@[simp] theorem State.setDt_mem (s : State) (b : Byte) : (s.setDt b).mem = s.mem := rfl
@[simp] theorem State.setDt_v (s : State) (b : Byte) : (s.setDt b).v = s.v := rfl
@[simp] theorem State.setDt_i (s : State) (b : Byte) : (s.setDt b).i = s.i := rfl
@[simp] theorem State.setDt_pc (s : State) (b : Byte) : (s.setDt b).pc = s.pc := rfl
@[simp] theorem State.setDt_stack (s : State) (b : Byte) : (s.setDt b).stack = s.stack := rfl
@[simp] theorem State.setDt_sp (s : State) (b : Byte) : (s.setDt b).sp = s.sp := rfl
@[simp] theorem State.setDt_dt (s : State) (b : Byte) : (s.setDt b).dt = b := rfl
@[simp] theorem State.setDt_st (s : State) (b : Byte) : (s.setDt b).st = s.st := rfl
@[simp] theorem State.setDt_fb (s : State) (b : Byte) : (s.setDt b).fb = s.fb := rfl
@[simp] theorem State.setDt_dirty (s : State) (b : Byte) : (s.setDt b).dirty = s.dirty := rfl
@[simp] theorem State.setDt_keys (s : State) (b : Byte) : (s.setDt b).keys = s.keys := rfl
@[simp] theorem State.setDt_draws (s : State) (b : Byte) : (s.setDt b).draws = s.draws := rfl
@[simp] theorem State.setDt_byteAt (s : State) (b : Byte) (a : Nat) : (s.setDt b).byteAt a = s.byteAt a := rfl
@[simp] theorem State.setDt_reg (s : State) (b : Byte) (z : Reg) : (s.setDt b).reg z = s.reg z := rfl
@[simp] theorem State.setDt_slot (s : State) (b : Byte) (j : Fin 16) : (s.setDt b).slot j = s.slot j := rfl
@[simp] theorem State.setDt_key (s : State) (b : Byte) (j : Reg) : (s.setDt b).key j = s.key j := rfl
@[simp] theorem State.setDt_cell (s : State) (b : Byte) (p : Nat) : (s.setDt b).cell p = s.cell p := rfl

/-! ### `setSt` -/

@[simp] theorem State.setSt_mem (s : State) (b : Byte) : (s.setSt b).mem = s.mem := rfl
@[simp] theorem State.setSt_v (s : State) (b : Byte) : (s.setSt b).v = s.v := rfl
@[simp] theorem State.setSt_i (s : State) (b : Byte) : (s.setSt b).i = s.i := rfl
@[simp] theorem State.setSt_pc (s : State) (b : Byte) : (s.setSt b).pc = s.pc := rfl
@[simp] theorem State.setSt_stack (s : State) (b : Byte) : (s.setSt b).stack = s.stack := rfl
@[simp] theorem State.setSt_sp (s : State) (b : Byte) : (s.setSt b).sp = s.sp := rfl
@[simp] theorem State.setSt_dt (s : State) (b : Byte) : (s.setSt b).dt = s.dt := rfl
@[simp] theorem State.setSt_st (s : State) (b : Byte) : (s.setSt b).st = b := rfl
@[simp] theorem State.setSt_fb (s : State) (b : Byte) : (s.setSt b).fb = s.fb := rfl
@[simp] theorem State.setSt_dirty (s : State) (b : Byte) : (s.setSt b).dirty = s.dirty := rfl
@[simp] theorem State.setSt_keys (s : State) (b : Byte) : (s.setSt b).keys = s.keys := rfl
@[simp] theorem State.setSt_draws (s : State) (b : Byte) : (s.setSt b).draws = s.draws := rfl
@[simp] theorem State.setSt_byteAt (s : State) (b : Byte) (a : Nat) : (s.setSt b).byteAt a = s.byteAt a := rfl
@[simp] theorem State.setSt_reg (s : State) (b : Byte) (z : Reg) : (s.setSt b).reg z = s.reg z := rfl
@[simp] theorem State.setSt_slot (s : State) (b : Byte) (j : Fin 16) : (s.setSt b).slot j = s.slot j := rfl
@[simp] theorem State.setSt_key (s : State) (b : Byte) (j : Reg) : (s.setSt b).key j = s.key j := rfl
@[simp] theorem State.setSt_cell (s : State) (b : Byte) (p : Nat) : (s.setSt b).cell p = s.cell p := rfl

/-! ### `setFb` -/

@[simp] theorem State.setFb_mem (s : State) (f : FrameBuffer) : (s.setFb f).mem = s.mem := rfl
@[simp] theorem State.setFb_v (s : State) (f : FrameBuffer) : (s.setFb f).v = s.v := rfl
@[simp] theorem State.setFb_i (s : State) (f : FrameBuffer) : (s.setFb f).i = s.i := rfl
@[simp] theorem State.setFb_pc (s : State) (f : FrameBuffer) : (s.setFb f).pc = s.pc := rfl
@[simp] theorem State.setFb_stack (s : State) (f : FrameBuffer) : (s.setFb f).stack = s.stack := rfl
@[simp] theorem State.setFb_sp (s : State) (f : FrameBuffer) : (s.setFb f).sp = s.sp := rfl
@[simp] theorem State.setFb_dt (s : State) (f : FrameBuffer) : (s.setFb f).dt = s.dt := rfl
@[simp] theorem State.setFb_st (s : State) (f : FrameBuffer) : (s.setFb f).st = s.st := rfl
@[simp] theorem State.setFb_fb (s : State) (f : FrameBuffer) : (s.setFb f).fb = f := rfl
@[simp] theorem State.setFb_dirty (s : State) (f : FrameBuffer) : (s.setFb f).dirty = s.dirty := rfl
@[simp] theorem State.setFb_keys (s : State) (f : FrameBuffer) : (s.setFb f).keys = s.keys := rfl
@[simp] theorem State.setFb_draws (s : State) (f : FrameBuffer) : (s.setFb f).draws = s.draws := rfl
@[simp] theorem State.setFb_byteAt (s : State) (f : FrameBuffer) (a : Nat) : (s.setFb f).byteAt a = s.byteAt a := rfl
@[simp] theorem State.setFb_reg (s : State) (f : FrameBuffer) (z : Reg) : (s.setFb f).reg z = s.reg z := rfl
@[simp] theorem State.setFb_slot (s : State) (f : FrameBuffer) (j : Fin 16) : (s.setFb f).slot j = s.slot j := rfl
@[simp] theorem State.setFb_key (s : State) (f : FrameBuffer) (j : Reg) : (s.setFb f).key j = s.key j := rfl

/-! ### `setDirty` -/

@[simp] theorem State.setDirty_mem (s : State) (d : Bool) : (s.setDirty d).mem = s.mem := rfl
@[simp] theorem State.setDirty_v (s : State) (d : Bool) : (s.setDirty d).v = s.v := rfl
@[simp] theorem State.setDirty_i (s : State) (d : Bool) : (s.setDirty d).i = s.i := rfl
@[simp] theorem State.setDirty_pc (s : State) (d : Bool) : (s.setDirty d).pc = s.pc := rfl
@[simp] theorem State.setDirty_stack (s : State) (d : Bool) : (s.setDirty d).stack = s.stack := rfl
@[simp] theorem State.setDirty_sp (s : State) (d : Bool) : (s.setDirty d).sp = s.sp := rfl
@[simp] theorem State.setDirty_dt (s : State) (d : Bool) : (s.setDirty d).dt = s.dt := rfl
@[simp] theorem State.setDirty_st (s : State) (d : Bool) : (s.setDirty d).st = s.st := rfl
@[simp] theorem State.setDirty_fb (s : State) (d : Bool) : (s.setDirty d).fb = s.fb := rfl
@[simp] theorem State.setDirty_dirty (s : State) (d : Bool) : (s.setDirty d).dirty = d := rfl
@[simp] theorem State.setDirty_keys (s : State) (d : Bool) : (s.setDirty d).keys = s.keys := rfl
@[simp] theorem State.setDirty_draws (s : State) (d : Bool) : (s.setDirty d).draws = s.draws := rfl
@[simp] theorem State.setDirty_byteAt (s : State) (d : Bool) (a : Nat) : (s.setDirty d).byteAt a = s.byteAt a := rfl
@[simp] theorem State.setDirty_reg (s : State) (d : Bool) (z : Reg) : (s.setDirty d).reg z = s.reg z := rfl
@[simp] theorem State.setDirty_slot (s : State) (d : Bool) (j : Fin 16) : (s.setDirty d).slot j = s.slot j := rfl
@[simp] theorem State.setDirty_key (s : State) (d : Bool) (j : Reg) : (s.setDirty d).key j = s.key j := rfl
@[simp] theorem State.setDirty_cell (s : State) (d : Bool) (p : Nat) : (s.setDirty d).cell p = s.cell p := rfl

/-! ### `setKey` -/

@[simp] theorem State.setKey_mem (s : State) (k : Reg) (b : Byte) : (s.setKey k b).mem = s.mem := rfl
@[simp] theorem State.setKey_v (s : State) (k : Reg) (b : Byte) : (s.setKey k b).v = s.v := rfl
@[simp] theorem State.setKey_i (s : State) (k : Reg) (b : Byte) : (s.setKey k b).i = s.i := rfl
@[simp] theorem State.setKey_pc (s : State) (k : Reg) (b : Byte) : (s.setKey k b).pc = s.pc := rfl
@[simp] theorem State.setKey_stack (s : State) (k : Reg) (b : Byte) : (s.setKey k b).stack = s.stack := rfl
@[simp] theorem State.setKey_sp (s : State) (k : Reg) (b : Byte) : (s.setKey k b).sp = s.sp := rfl
@[simp] theorem State.setKey_dt (s : State) (k : Reg) (b : Byte) : (s.setKey k b).dt = s.dt := rfl
@[simp] theorem State.setKey_st (s : State) (k : Reg) (b : Byte) : (s.setKey k b).st = s.st := rfl
@[simp] theorem State.setKey_fb (s : State) (k : Reg) (b : Byte) : (s.setKey k b).fb = s.fb := rfl
@[simp] theorem State.setKey_dirty (s : State) (k : Reg) (b : Byte) : (s.setKey k b).dirty = s.dirty := rfl
@[simp] theorem State.setKey_keys (s : State) (k : Reg) (b : Byte) : (s.setKey k b).keys = s.keys.set k.val b k.isLt := rfl
@[simp] theorem State.setKey_draws (s : State) (k : Reg) (b : Byte) : (s.setKey k b).draws = s.draws := rfl
@[simp] theorem State.setKey_byteAt (s : State) (k : Reg) (b : Byte) (a : Nat) : (s.setKey k b).byteAt a = s.byteAt a := rfl
@[simp] theorem State.setKey_reg (s : State) (k : Reg) (b : Byte) (z : Reg) : (s.setKey k b).reg z = s.reg z := rfl
@[simp] theorem State.setKey_slot (s : State) (k : Reg) (b : Byte) (j : Fin 16) : (s.setKey k b).slot j = s.slot j := rfl
@[simp] theorem State.setKey_cell (s : State) (k : Reg) (b : Byte) (p : Nat) : (s.setKey k b).cell p = s.cell p := rfl

/-! ### `setDraws` -/

@[simp] theorem State.setDraws_mem (s : State) (n : Nat) : (s.setDraws n).mem = s.mem := rfl
@[simp] theorem State.setDraws_v (s : State) (n : Nat) : (s.setDraws n).v = s.v := rfl
@[simp] theorem State.setDraws_i (s : State) (n : Nat) : (s.setDraws n).i = s.i := rfl
@[simp] theorem State.setDraws_pc (s : State) (n : Nat) : (s.setDraws n).pc = s.pc := rfl
@[simp] theorem State.setDraws_stack (s : State) (n : Nat) : (s.setDraws n).stack = s.stack := rfl
@[simp] theorem State.setDraws_sp (s : State) (n : Nat) : (s.setDraws n).sp = s.sp := rfl
@[simp] theorem State.setDraws_dt (s : State) (n : Nat) : (s.setDraws n).dt = s.dt := rfl
@[simp] theorem State.setDraws_st (s : State) (n : Nat) : (s.setDraws n).st = s.st := rfl
@[simp] theorem State.setDraws_fb (s : State) (n : Nat) : (s.setDraws n).fb = s.fb := rfl
@[simp] theorem State.setDraws_dirty (s : State) (n : Nat) : (s.setDraws n).dirty = s.dirty := rfl
@[simp] theorem State.setDraws_keys (s : State) (n : Nat) : (s.setDraws n).keys = s.keys := rfl
@[simp] theorem State.setDraws_draws (s : State) (n : Nat) : (s.setDraws n).draws = n := rfl
@[simp] theorem State.setDraws_byteAt (s : State) (n : Nat) (a : Nat) : (s.setDraws n).byteAt a = s.byteAt a := rfl
@[simp] theorem State.setDraws_reg (s : State) (n : Nat) (z : Reg) : (s.setDraws n).reg z = s.reg z := rfl
@[simp] theorem State.setDraws_slot (s : State) (n : Nat) (j : Fin 16) : (s.setDraws n).slot j = s.slot j := rfl
@[simp] theorem State.setDraws_key (s : State) (n : Nat) (j : Reg) : (s.setDraws n).key j = s.key j := rfl
@[simp] theorem State.setDraws_cell (s : State) (n : Nat) (p : Nat) : (s.setDraws n).cell p = s.cell p := rfl

/-! ### Readers after the write of their own component -/

@[simp] theorem State.setMem_byteAt (s : State) (m : Memory) (a : Nat) : (s.setMem m).byteAt a = m.read a := rfl

@[simp] theorem State.setFb_cell (s : State) (f : FrameBuffer) (p : Nat) : (s.setFb f).cell p = cellOf f p := rfl

@[simp] theorem State.setRegs_reg (s : State) (w : Vector Byte 16) (z : Reg) : (s.setRegs w).reg z = w[z] := rfl

/-- A register read after a register write: the value written, or the old one (R21). -/
@[simp] theorem State.setReg_reg (s : State) (x : Reg) (b : Byte) (z : Reg) :
    (s.setReg x b).reg z = if z = x then b else s.reg z := by
  simp only [State.reg, State.setReg, Fin.getElem_fin, Vector.getElem_set, Fin.ext_iff, eq_comm]

/-- A slot read after a slot write (R28). -/
@[simp] theorem State.setSlot_slot (s : State) (k : Fin 16) (w : Word) (j : Fin 16) :
    (s.setSlot k w).slot j = if j = k then w else s.slot j := by
  simp only [State.slot, State.setSlot, Fin.getElem_fin, Vector.getElem_set, Fin.ext_iff, eq_comm]

/-- A key flag read after a key write: no other key is touched (R185). -/
@[simp] theorem State.setKey_key (s : State) (k : Reg) (b : Byte) (j : Reg) :
    (s.setKey k b).key j = if j = k then b else s.key j := by
  simp only [State.key, State.setKey, Fin.getElem_fin, Vector.getElem_set, Fin.ext_iff, eq_comm]

end Sys2Proof.Machine
end

