-- ==== Sys2Proof/Laws/Memory.lean ====
section
/-! SUPPORT. The laws of memory: a read after a write, a read after a run of writes, and that every memory operation
keeps the canonical form (20_memory.md R53, R55). -/

namespace Sys2Proof.Machine

theorem Memory.read_remove (m : Memory) (a b : Nat) :
    (m.remove a).read b = if b = a then Memory.unlisted a else m.read b := by
  induction m with
  | nil => by_cases h : b = a <;> simp [Memory.remove, Memory.read, h]
  | cons c m ih =>
    by_cases hc : c.1 = a
    · have : Memory.remove (c :: m) a = Memory.remove m a := by simp [Memory.remove, hc]
      rw [this, ih, Memory.read]
      by_cases h : b = a
      · simp [h]
      · have : c.1 ≠ b := fun e => h (e ▸ hc)
        simp [h, this]
    · have : Memory.remove (c :: m) a = c :: Memory.remove m a := by simp [Memory.remove, hc]
      rw [this, Memory.read, Memory.read, ih]
      by_cases h : b = a
      · simp [h, hc]
      · simp [h]

theorem Memory.read_put (m : Memory) (a : Nat) (v : Byte) (b : Nat) (fresh : ∀ c ∈ m, c.1 ≠ a) :
    (m.put a v).read b = if b = a then v else m.read b := by
  induction m with
  | nil =>
    by_cases hb : b = a
    · simp [Memory.put, Memory.read, hb]
    · simp [Memory.put, Memory.read, hb, Ne.symm hb]
  | cons c m ih =>
    have hc : c.1 ≠ a := fresh c (by simp)
    by_cases hlt : a < c.1
    · by_cases hb : b = a
      · simp [Memory.put, Memory.read, hlt, hb]
      · simp [Memory.put, Memory.read, hlt, hb, Ne.symm hb]
    · simp only [Memory.put, hlt, if_false, Memory.read, ih fun d hd => fresh d (by simp [hd])]
      by_cases hcb : c.1 = b
      · have hb : b ≠ a := fun e => hc (hcb.trans e)
        simp [hcb, hb]
      · simp [hcb]

theorem Memory.fresh_remove (m : Memory) (a : Nat) : ∀ c ∈ m.remove a, c.1 ≠ a := by
  intro c hc
  simpa [Memory.remove] using (List.mem_filter.mp hc).2

/-- A read after a write to the same address gives the byte written, and a write leaves every other address alone
(R55). It holds of every list, canonical or not. -/
@[simp] theorem Memory.read_write (m : Memory) (a : Nat) (v : Byte) (b : Nat) :
    (m.write a v).read b = if b = a then v else m.read b := by
  unfold Memory.write
  by_cases hv : v = Memory.unlisted a
  · simp [hv, Memory.read_remove]
  · simp only [hv, if_false]
    rw [Memory.read_put _ _ _ _ (Memory.fresh_remove m a), Memory.read_remove]
    by_cases h : b = a <;> simp [h]

/-- A read after a run of writes from `a` on: the byte written, or the old content (R143, R144, R204). -/
theorem Memory.read_writeBytes (m : Memory) (a : Nat) (bs : List Byte) (b : Nat) :
    (m.writeBytes a bs).read b = if a ≤ b ∧ b < a + bs.length then bs.getD (b - a) 0#8 else m.read b := by
  induction bs generalizing m a with
  | nil =>
    simp [Memory.writeBytes]
  | cons v bs ih =>
    rw [Memory.writeBytes, ih, Memory.read_write]
    rcases Nat.lt_trichotomy b a with h | h | h
    · have h1 : ¬ (a + 1 ≤ b ∧ b < a + 1 + bs.length) := by omega
      have h2 : ¬ (a ≤ b ∧ b < a + (v :: bs).length) := by omega
      rw [if_neg h1, if_neg h2, if_neg (by omega)]
    · subst h
      simp
    · have e : b - a = (b - (a + 1)) + 1 := by omega
      have h3 : b ≠ a := by omega
      by_cases h1 : b < a + 1 + bs.length
      · rw [if_pos ⟨by omega, h1⟩, if_pos ⟨by omega, by simp only [List.length_cons]; omega⟩, e, List.getD_cons_succ]
      · have h2 : ¬ (a ≤ b ∧ b < a + (v :: bs).length) := by simp only [List.length_cons]; omega
        rw [if_neg (by omega), if_neg h2, if_neg h3]

theorem Memory.writeBytes_inside (m : Memory) (a : Nat) (bs : List Byte) (k : Nat) (h : k < bs.length) :
    (m.writeBytes a bs).read (a + k) = bs[k] := by
  rw [Memory.read_writeBytes, if_pos ⟨by omega, by omega⟩]
  simp [h]

theorem Memory.writeBytes_outside (m : Memory) (a : Nat) (bs : List Byte) (b : Nat) (h : b < a ∨ a + bs.length ≤ b) :
    (m.writeBytes a bs).read b = m.read b := by
  rw [Memory.read_writeBytes, if_neg (by omega)]

/-! ### The canonical form -/

theorem Memory.wf_nil : Memory.wf [] := by simp [Memory.wf]

theorem Memory.wf_remove {m : Memory} (a : Nat) (h : m.wf) : (m.remove a).wf :=
  ⟨h.1.filter _, fun c hc => h.2 c (List.mem_filter.mp hc).1⟩

theorem Memory.mem_put {m : Memory} {a : Nat} {v : Byte} {c : Host.Cell} (h : c ∈ m.put a v) :
    c = (a, v) ∨ c ∈ m := by
  induction m with
  | nil => simpa [Memory.put] using h
  | cons d m ih =>
    unfold Memory.put at h
    split at h
    · simpa using h
    · rcases List.mem_cons.mp h with h | h
      · exact .inr (by simp [h])
      · exact (ih h).imp_right (by simp +contextual)

theorem Memory.wf_put {m : Memory} {a : Nat} {v : Byte} (ha : a < Config.memSize) (hv : v ≠ Memory.unlisted a)
    (fresh : ∀ c ∈ m, c.1 ≠ a) (h : m.wf) : (m.put a v).wf := by
  refine ⟨?_, fun c hc => ?_⟩
  · have hs := h.1
    clear h
    induction m with
    | nil => simp [Memory.put]
    | cons d m ih =>
      have hd : d.1 ≠ a := fresh d (by simp)
      have hm := List.pairwise_cons.mp hs
      unfold Memory.put
      split
      · rename_i hlt
        refine List.pairwise_cons.mpr ⟨fun c hc => ?_, hs⟩
        rcases List.mem_cons.mp hc with hc | hc
        · simpa [hc] using hlt
        · exact Nat.lt_trans hlt (hm.1 c hc)
      · rename_i hlt
        refine List.pairwise_cons.mpr ⟨fun c hc => ?_, ih (fun c hc => fresh c (by simp [hc])) hm.2⟩
        rcases Memory.mem_put hc with hc | hc
        · subst hc; simp only; omega
        · exact hm.1 c hc
  · rcases Memory.mem_put hc with hc | hc
    · subst hc; exact ⟨ha, hv⟩
    · exact h.2 c hc

/-- A byte write inside the 4096 cells keeps the canonical form. -/
theorem Memory.wf_write {m : Memory} {a : Nat} (v : Byte) (ha : a < Config.memSize) (h : m.wf) : (m.write a v).wf := by
  unfold Memory.write
  split
  · exact Memory.wf_remove a h
  · rename_i hv
    exact Memory.wf_put ha hv (Memory.fresh_remove m a) (Memory.wf_remove a h)

/-- A run of byte writes inside the 4096 cells keeps the canonical form. -/
theorem Memory.wf_writeBytes {m : Memory} {a : Nat} (bs : List Byte) (ha : a + bs.length ≤ Config.memSize)
    (h : m.wf) : (m.writeBytes a bs).wf := by
  induction bs generalizing m a with
  | nil => exact h
  | cons v bs ih =>
    simp only [List.length_cons] at ha
    exact ih (by omega) (Memory.wf_write v (by omega) h)

@[simp] theorem Memory.length_readBytes (m : Memory) (a n : Nat) : (m.readBytes a n).length = n := by
  simp [Memory.readBytes]

@[simp] theorem Memory.getElem_readBytes (m : Memory) (a n k : Nat) (h : k < (m.readBytes a n).length) :
    (m.readBytes a n)[k] = m.read (a + k) := by
  simp [Memory.readBytes]

end Sys2Proof.Machine
end

