-- ==== Sys2Proof/Laws/Ops.lean ====
section
/-! SUPPORT. One lemma per shared operation that says everything it can do: the range check, the fetch, the stack
engine, the key scan, the operand forms, the flag values and the bitmap writer. -/

namespace Sys2Proof.Machine

/-! ### The range check and the fetch -/

/-- `checkRange` answers a next state exactly when the whole range is inside memory (R52). -/
theorem checkRange_eq_next {a len : Nat} {go : Result} {t : State} :
    checkRange a len go = .next t ↔ ¬ OutOfRange a len ∧ go = .next t := by
  unfold checkRange raise
  split <;> simp_all

theorem checkRange_inside {a len : Nat} (h : ¬ OutOfRange a len) (go : Result) : checkRange a len go = go := by
  exact if_neg h

theorem checkRange_outside {a len : Nat} (h : OutOfRange a len) (go : Result) :
    checkRange a len go = .fault (rangeFault a) := by
  exact if_pos h

/-- The fetch answers a word exactly when `pc` is at most 4094, and then it is the word at `pc` (R54). -/
theorem fetch_eq_ok {s : State} {w : Word} : fetch s = .ok w ↔ s.pc.toNat ≤ 4094 ∧ s.wordAt s.pc.toNat = w := by
  unfold fetch OutOfRange
  split
  · simp only [reduceCtorEq, false_iff]; omega
  · simp only [Except.ok.injEq, iff_and_self]; omega

/-- The fetch faults exactly when `pc` exceeds 4094 (R54). -/
theorem fetch_eq_error {s : State} {f : Fault} :
    fetch s = .error f ↔ s.pc.toNat > 4094 ∧ f = rangeFault s.pc.toNat := by
  unfold fetch OutOfRange
  split
  · simp only [Except.error.injEq]; constructor
    · intro h; exact ⟨by omega, h.symm⟩
    · intro h; exact h.2.symm
  · simp only [reduceCtorEq, false_iff]; omega

/-- A word placed at `pc` is what the fetch answers (R54, R62). -/
theorem fetch_placeWord (s : State) (w : Word) (h : s.pc.toNat ≤ 4094) : fetch (s.placeWord w) = .ok w := by
  have hr : ¬ OutOfRange s.pc.toNat 2 := by unfold OutOfRange; omega
  have hb : bytesWord (highByte w) (lowByte w) = w := by
    apply BitVec.eq_of_getLsbD_eq
    intro k hk
    simp only [bytesWord, highByte, lowByte, BitVec.getLsbD_append, BitVec.getLsbD_extractLsb']
    by_cases h8 : k < 8
    · simp [h8]
    · simp [h8, show k - 8 < 8 by omega, show 8 + (k - 8) = k by omega]
  simp only [State.placeWord, hr, if_false, fetch_eq_ok, State.setMem_pc, State.wordAt, State.setMem_byteAt,
    wordBytes, Memory.writeBytes, Memory.read_write]
  simp [h, hb]

/-! ### The stack engine -/

/-- `push` succeeds exactly when the stack holds fewer than 16 return addresses (R102). -/
theorem State.push_eq_some {s t : State} {w : Word} : s.push w = some t ↔
    ∃ h : s.sp.val < 16, t = (s.setSlot ⟨s.sp.val, h⟩ w).setSp ⟨s.sp.val + 1, by omega⟩ := by
  unfold State.push
  split
  · rename_i h; simp [h, eq_comm]
  · rename_i h; simp [h]

theorem State.push_eq_none {s : State} {w : Word} : s.push w = none ↔ s.sp.val = 16 := by
  unfold State.push
  split
  · simp only [reduceCtorEq, false_iff]; omega
  · simp only [true_iff]; omega

/-- `pop` succeeds exactly when the stack is not empty (R100). -/
theorem State.pop_eq_some {s t : State} {w : Word} : s.pop = some (w, t) ↔
    ∃ h : 0 < s.sp.val, w = s.slot ⟨s.sp.val - 1, by omega⟩ ∧ t = s.setSp ⟨s.sp.val - 1, by omega⟩ := by
  unfold State.pop
  split
  · rename_i h; simp [h, eq_comm]
  · rename_i h; simp [h]

theorem State.pop_eq_none {s : State} : s.pop = none ↔ s.sp.val = 0 := by
  unfold State.pop
  split
  · simp only [reduceCtorEq, false_iff]; omega
  · simp only [true_iff]; omega

/-! ### Keys -/

/-- A key is pressed iff its byte is not zero (R114). -/
theorem State.pressed_iff {s : State} {k : Reg} : s.pressed k = true ↔ s.key k ≠ 0#8 := by
  simp [State.pressed]

theorem mem_keyCodes (k : Reg) : k ∈ keyCodes := by revert k; decide

/-- No key is found exactly when none is pressed (R161). -/
theorem State.firstPressed_eq_none {s : State} : s.firstPressed = none ↔ ∀ k : Reg, s.key k = 0#8 := by
  simp only [State.firstPressed, List.find?_eq_none, State.pressed_iff, ne_eq, not_not]
  exact ⟨fun h k => h k (mem_keyCodes k), fun h k _ => h k⟩

theorem keyCodes_pairwise : keyCodes.Pairwise (· < ·) := by decide

/-- The key found is the pressed key of lowest code (R161). -/
theorem State.firstPressed_eq_some {s : State} {k : Reg} :
    s.firstPressed = some k ↔ s.key k ≠ 0#8 ∧ ∀ j : Reg, j < k → s.key j = 0#8 := by
  simp only [State.firstPressed, List.find?_eq_some_iff_append, State.pressed_iff]
  constructor
  · rintro ⟨hk, as, bs, hl, hb⟩
    refine ⟨hk, fun j hj => ?_⟩
    have hm : j ∈ as ++ k :: bs := hl ▸ mem_keyCodes j
    have hp : (as ++ k :: bs).Pairwise (· < ·) := hl ▸ keyCodes_pairwise
    rcases List.mem_append.mp hm with h | h
    · simpa [State.pressed] using hb j h
    · rcases List.mem_cons.mp h with h | h
      · exact absurd hj (by simp [h])
      · have := (List.pairwise_cons.mp (List.pairwise_append.mp hp).2.1).1 j h
        exact absurd hj (lt_asymm this)
  · rintro ⟨hk, hlow⟩
    obtain ⟨as, bs, hl⟩ := List.append_of_mem (mem_keyCodes k)
    refine ⟨hk, as, bs, hl, fun j hj => ?_⟩
    have hp : (as ++ k :: bs).Pairwise (· < ·) := hl ▸ keyCodes_pairwise
    simpa [State.pressed] using hlow j ((List.pairwise_append.mp hp).2.2 j hj k (by simp))

/-! ### Operand forms -/

@[simp] theorem target_toNat (nnn : Addr12) : (target nnn).toNat = nnn.toNat := by
  simp only [target, BitVec.zeroExtend, BitVec.toNat_setWidth]; omega

@[simp] theorem zext16_toNat (b : Byte) : (zext16 b).toNat = b.toNat := by
  simp only [zext16, BitVec.zeroExtend, BitVec.toNat_setWidth]; omega

@[simp] theorem glyphAddr_toNat (b : Byte) : (glyphAddr b).toNat = b.toNat * 5 := by
  simp only [glyphAddr, BitVec.toNat_ofNat]; omega

@[simp] theorem codeByte_toNat (k : Reg) : (codeByte k).toNat = k.val := by
  simp only [codeByte, BitVec.toNat_ofNat]; omega

@[simp] theorem length_decimalDigits (b : Byte) : (decimalDigits b).length = 3 := rfl

@[simp] theorem length_regsThrough (x : Reg) (s : State) : (regsThrough x s).length = x.val + 1 := by
  simp only [regsThrough, List.length_take, Vector.length_toList]; omega

/-- The `k`-th byte Fx55 stores is `V[k]` (R144). -/
theorem getElem_regsThrough (x : Reg) (s : State) (k : Nat) (h : k < (regsThrough x s).length) :
    (regsThrough x s)[k] = s.reg ⟨k, by simp at h; omega⟩ := by
  simp [regsThrough, State.reg]

/-- A register after Fx65: the byte loaded up to x, its old value above (R145). -/
theorem getElem_regsLoaded (x : Reg) (a : Nat) (s : State) (k : Reg) :
    (regsLoaded x a s)[k] = if k.val ≤ x.val then s.byteAt (a + k.val) else s.reg k := by
  simp [regsLoaded]

/-! ### Flags and results -/

@[simp] theorem flagByte_toNat (c : Bool) : (flagByte c).toNat = if c then 1 else 0 := by cases c <;> rfl

@[simp] theorem addByte_toNat (a b : Byte) : (addByte a b).toNat = (a.toNat + b.toNat) % 256 := by
  simp [addByte, BitVec.toNat_ofNat]

@[simp] theorem subByte_toNat (a b : Byte) : (subByte a b).toNat = (a.toNat + 256 - b.toNat) % 256 := by
  simp [subByte, BitVec.toNat_ofNat]

@[simp] theorem shiftRight_toNat (b : Byte) : (shiftRight b).toNat = b.toNat / 2 := by
  simp [shiftRight, BitVec.toNat_ushiftRight, Nat.shiftRight_eq_div_pow]

@[simp] theorem shiftLeft_toNat (b : Byte) : (shiftLeft b).toNat = b.toNat * 2 % 256 := by
  simp [shiftLeft, BitVec.toNat_shiftLeft, Nat.shiftLeft_eq]

/-! ### The bitmap writer -/

/-- The clear screen has every cell 0 (R150). -/
@[simp] theorem cellOf_clearScreen (p : Nat) : cellOf clearScreen p = false := by
  simp only [cellOf, clearScreen]
  by_cases h : p / Config.columns < Config.rows
  · simp [Vector.getElem?_eq_getElem h]
  · simp [Vector.getElem?_eq_none (Nat.le_of_not_lt h)]

/-- There is no cell past the last (R31). -/
theorem cellOf_past (f : FrameBuffer) (p : Nat) (h : Config.cells ≤ p) : cellOf f p = false := by
  have : Config.rows ≤ p / Config.columns := by simp only [Config.cells, Config.rows, Config.columns] at *; omega
  simp [cellOf, Vector.getElem?_eq_none this]

/-- Flipping a cell complements that cell and no other (R152). -/
theorem cellOf_flipCell (f : FrameBuffer) (p q : Nat) (h : q < Config.cells) :
    cellOf (flipCell f p) q = (cellOf f q ^^ decide (p = q)) := by
  have hq : q / Config.columns < Config.rows := by simp only [Config.cells, Config.rows, Config.columns] at *; omega
  have hm : q % Config.columns < Config.columns := Nat.mod_lt _ (by decide)
  unfold flipCell
  split
  · rename_i hp
    simp only [cellOf, Vector.getElem?_eq_getElem hq, Option.getD_some, Vector.getElem_set]
    by_cases e : p / Config.columns = q / Config.columns
    · simp only [e, if_true, BitVec.getLsbD_xor, BitVec.getLsbD_twoPow]
      have : (p % Config.columns = q % Config.columns) = (p = q) := by
        simp only [Config.columns, eq_iff_iff] at *; omega
      have hd : (decide (p % Config.columns < Config.columns) && decide (p % Config.columns = q % Config.columns)) =
          decide (p = q) := by
        rw [decide_eq_true (Nat.mod_lt p (by decide)), Bool.true_and]; exact decide_eq_decide.2 (by rw [this])
      rw [hd]
    · have : p ≠ q := fun h => e (h ▸ rfl)
      simp [e, this]
  · rename_i hp
    have : p ≠ q := fun h => hp (h ▸ hq)
    simp [this]

/-- Every visible pixel of a sprite that starts on the screen is one of the 2048 cells (R36, R152). -/
theorem pixelCell_lt {pol : EdgePolicy} {x0 y0 r c p : Nat} (h : pixelCell pol x0 y0 r c = some p) :
    p < Config.cells := by
  cases pol
  · simp only [pixelCell, cellIndex, Config.columns, Config.rows, Option.some.injEq] at h
    simp only [Config.cells]; omega
  · simp only [pixelCell, cellIndex, Config.columns] at h
    split at h
    · simp only [Option.some.injEq] at h; simp only [Config.cells]; omega
    · exact absurd h (by simp)

/-- The draw loop over distinct cells complements exactly those, and `hit` is the OR of their old values (R152). -/
theorem drawCells_nodup (ps : List Nat) (hn : ps.Nodup) (f : FrameBuffer) (h : Bool) :
    (∀ q, q < Config.cells → cellOf (drawCells ps (f, h)).1 q = (cellOf f q ^^ decide (q ∈ ps))) ∧
      (drawCells ps (f, h)).2 = (h || ps.any (fun p => cellOf f p)) := by
  induction ps generalizing f h with
  | nil => simp [drawCells]
  | cons p ps ih =>
    have hp := List.nodup_cons.1 hn
    obtain ⟨h1, h2⟩ := ih hp.2 (flipCell f p) (h || cellOf f p)
    refine ⟨fun q hq => ?_, ?_⟩
    · rw [drawCells, h1 q hq, cellOf_flipCell _ _ _ hq]
      by_cases e : p = q
      · subst e; simp [hp.1]
      · simp [e, Ne.symm e]
    · have hs : ps.any (fun r => cellOf (flipCell f p) r) = ps.any (fun r => cellOf f r) := by
        rw [Bool.eq_iff_iff, List.any_eq_true, List.any_eq_true]
        refine exists_congr fun r => and_congr_right fun hr => ?_
        by_cases hq : r < Config.cells
        · rw [cellOf_flipCell _ _ _ hq]; simp [show p ≠ r from fun e => hp.1 (e ▸ hr)]
        · simp [cellOf_past _ r (Nat.le_of_not_lt hq)]
      rw [drawCells, h2, hs]; simp [Bool.or_assoc]

/-- The cells of one sprite row: those under its visible 1 bits (R152). -/
theorem mem_rowCells {pol : EdgePolicy} {x0 y0 r p : Nat} {b : Byte} :
    p ∈ rowCells pol x0 y0 r b ↔ ∃ c, c < 8 ∧ b.getLsbD (7 - c) = true ∧ pixelCell pol x0 y0 r c = some p := by
  simp only [rowCells, List.mem_filterMap, List.mem_range]
  refine exists_congr fun c => and_congr_right fun _ => ?_
  split <;> simp_all

/-- The cells of a sprite: those of its rows (R152). -/
theorem mem_spriteCells {pol : EdgePolicy} {x0 y0 r p : Nat} {bs : List Byte} :
    p ∈ spriteCells pol x0 y0 r bs ↔ ∃ k, ∃ h : k < bs.length, p ∈ rowCells pol x0 y0 (r + k) bs[k] := by
  induction bs generalizing r with
  | nil => simp [spriteCells]
  | cons b bs ih =>
    simp only [spriteCells, List.mem_append, ih]
    constructor
    · rintro (h | ⟨k, hk, h⟩)
      · exact ⟨0, by simp, by simpa using h⟩
      · exact ⟨k + 1, by simpa using hk, by simpa [Nat.add_assoc, Nat.add_comm 1] using h⟩
    · rintro ⟨k, hk, h⟩
      cases k with
      | zero => left; simpa using h
      | succ k => right; exact ⟨k, by simpa using hk, by simpa [Nat.add_assoc, Nat.add_comm 1] using h⟩

end Sys2Proof.Machine
end

