-- ==== Sys2Proof/Laws/PerInstr.lean ====
section
/-! SUPPORT. The statements made per instruction. `EncodesRow`: the word the encoder gives an instruction matches the
row of the opcode map that the instruction stands for, and that row is one of the map's (30_encoding.md R89). -/

namespace Sys2Proof

/-! ### A word under the masks of the opcode map -/

theorem wordNNN_mask (f : BitVec 4) (nnn : Addr12) : wordNNN f nnn &&& 0xF000#16 = wordNNN f 0#12 := by
  apply BitVec.eq_of_getLsbD_eq; intro k hk
  simp only [wordNNN, BitVec.getLsbD_and, BitVec.getLsbD_append]
  interval_cases k <;> simp

theorem wordXNN_mask_family (f : BitVec 4) (x : Reg) (nn : Byte) :
    wordXNN f x nn &&& 0xF000#16 = wordXNN f 0 0#8 := by
  apply BitVec.eq_of_getLsbD_eq; intro k hk
  simp only [wordXNN, BitVec.getLsbD_and, BitVec.getLsbD_append]
  interval_cases k <;> simp [nib]

theorem wordXNN_mask_low (f : BitVec 4) (x : Reg) (nn : Byte) :
    wordXNN f x nn &&& 0xF0FF#16 = wordXNN f 0 nn := by
  apply BitVec.eq_of_getLsbD_eq; intro k hk
  simp only [wordXNN, BitVec.getLsbD_and, BitVec.getLsbD_append]
  interval_cases k <;> simp [nib]

theorem wordXYN_mask_family (f : BitVec 4) (x y : Reg) (n : Fin 16) :
    wordXYN f x y n &&& 0xF000#16 = wordXYN f 0 0 0 := by
  apply BitVec.eq_of_getLsbD_eq; intro k hk
  simp only [wordXYN, BitVec.getLsbD_and, BitVec.getLsbD_append]
  interval_cases k <;> simp [nib]

theorem wordXYN_mask_low (f : BitVec 4) (x y : Reg) (n : Fin 16) :
    wordXYN f x y n &&& 0xF00F#16 = wordXYN f 0 0 n := by
  apply BitVec.eq_of_getLsbD_eq; intro k hk
  simp only [wordXYN, BitVec.getLsbD_and, BitVec.getLsbD_append]
  interval_cases k <;> simp [nib]

namespace Laws.EncodesRow

/-- The encoder's word matches the instruction's row of the opcode map (R89). -/
def Statement (i : Instr) : Prop := i.row ∈ opcodeMap ∧ i.row.accepts (encode i) = true

theorem cls : Statement .cls := ⟨by decide, by decide⟩

theorem ret : Statement .ret := ⟨by decide, by decide⟩

theorem jp (nnn : Addr12) : Statement (.jp nnn) :=
  ⟨by simp only [Instr.row]; decide, by simp only [OpRow.accepts, Instr.row, encode, wordNNN_mask]; decide⟩

theorem call (nnn : Addr12) : Statement (.call nnn) :=
  ⟨by simp only [Instr.row]; decide, by simp only [OpRow.accepts, Instr.row, encode, wordNNN_mask]; decide⟩

theorem seImm (x : Reg) (nn : Byte) : Statement (.seImm x nn) :=
  ⟨by simp only [Instr.row]; decide, by simp only [OpRow.accepts, Instr.row, encode, wordXNN_mask_family]; decide⟩

theorem sneImm (x : Reg) (nn : Byte) : Statement (.sneImm x nn) :=
  ⟨by simp only [Instr.row]; decide, by simp only [OpRow.accepts, Instr.row, encode, wordXNN_mask_family]; decide⟩

theorem seReg (x y : Reg) : Statement (.seReg x y) :=
  ⟨by simp only [Instr.row]; decide, by simp only [OpRow.accepts, Instr.row, encode, wordXYN_mask_low]; decide⟩

theorem ldImm (x : Reg) (nn : Byte) : Statement (.ldImm x nn) :=
  ⟨by simp only [Instr.row]; decide, by simp only [OpRow.accepts, Instr.row, encode, wordXNN_mask_family]; decide⟩

theorem addImm (x : Reg) (nn : Byte) : Statement (.addImm x nn) :=
  ⟨by simp only [Instr.row]; decide, by simp only [OpRow.accepts, Instr.row, encode, wordXNN_mask_family]; decide⟩

theorem ldReg (x y : Reg) : Statement (.ldReg x y) :=
  ⟨by simp only [Instr.row]; decide, by simp only [OpRow.accepts, Instr.row, encode, wordXYN_mask_low]; decide⟩

theorem orReg (x y : Reg) : Statement (.orReg x y) :=
  ⟨by simp only [Instr.row]; decide, by simp only [OpRow.accepts, Instr.row, encode, wordXYN_mask_low]; decide⟩

theorem andReg (x y : Reg) : Statement (.andReg x y) :=
  ⟨by simp only [Instr.row]; decide, by simp only [OpRow.accepts, Instr.row, encode, wordXYN_mask_low]; decide⟩

theorem xorReg (x y : Reg) : Statement (.xorReg x y) :=
  ⟨by simp only [Instr.row]; decide, by simp only [OpRow.accepts, Instr.row, encode, wordXYN_mask_low]; decide⟩

theorem addReg (x y : Reg) : Statement (.addReg x y) :=
  ⟨by simp only [Instr.row]; decide, by simp only [OpRow.accepts, Instr.row, encode, wordXYN_mask_low]; decide⟩

theorem sub (x y : Reg) : Statement (.sub x y) :=
  ⟨by simp only [Instr.row]; decide, by simp only [OpRow.accepts, Instr.row, encode, wordXYN_mask_low]; decide⟩

theorem shr (x y : Reg) : Statement (.shr x y) :=
  ⟨by simp only [Instr.row]; decide, by simp only [OpRow.accepts, Instr.row, encode, wordXYN_mask_low]; decide⟩

theorem subn (x y : Reg) : Statement (.subn x y) :=
  ⟨by simp only [Instr.row]; decide, by simp only [OpRow.accepts, Instr.row, encode, wordXYN_mask_low]; decide⟩

theorem shl (x y : Reg) : Statement (.shl x y) :=
  ⟨by simp only [Instr.row]; decide, by simp only [OpRow.accepts, Instr.row, encode, wordXYN_mask_low]; decide⟩

theorem sneReg (x y : Reg) : Statement (.sneReg x y) :=
  ⟨by simp only [Instr.row]; decide, by simp only [OpRow.accepts, Instr.row, encode, wordXYN_mask_low]; decide⟩

theorem ldI (nnn : Addr12) : Statement (.ldI nnn) :=
  ⟨by simp only [Instr.row]; decide, by simp only [OpRow.accepts, Instr.row, encode, wordNNN_mask]; decide⟩

theorem jpV0 (nnn : Addr12) : Statement (.jpV0 nnn) :=
  ⟨by simp only [Instr.row]; decide, by simp only [OpRow.accepts, Instr.row, encode, wordNNN_mask]; decide⟩

theorem rnd (x : Reg) (nn : Byte) : Statement (.rnd x nn) :=
  ⟨by simp only [Instr.row]; decide, by simp only [OpRow.accepts, Instr.row, encode, wordXNN_mask_family]; decide⟩

theorem drw (x y : Reg) (n : Fin 16) : Statement (.drw x y n) :=
  ⟨by simp only [Instr.row]; decide, by simp only [OpRow.accepts, Instr.row, encode, wordXYN_mask_family]; decide⟩

theorem skp (x : Reg) : Statement (.skp x) :=
  ⟨by simp only [Instr.row]; decide, by simp only [OpRow.accepts, Instr.row, encode, wordXNN_mask_low]; decide⟩

theorem sknp (x : Reg) : Statement (.sknp x) :=
  ⟨by simp only [Instr.row]; decide, by simp only [OpRow.accepts, Instr.row, encode, wordXNN_mask_low]; decide⟩

theorem ldVxDt (x : Reg) : Statement (.ldVxDt x) :=
  ⟨by simp only [Instr.row]; decide, by simp only [OpRow.accepts, Instr.row, encode, wordXNN_mask_low]; decide⟩

theorem ldVxK (x : Reg) : Statement (.ldVxK x) :=
  ⟨by simp only [Instr.row]; decide, by simp only [OpRow.accepts, Instr.row, encode, wordXNN_mask_low]; decide⟩

theorem ldDtVx (x : Reg) : Statement (.ldDtVx x) :=
  ⟨by simp only [Instr.row]; decide, by simp only [OpRow.accepts, Instr.row, encode, wordXNN_mask_low]; decide⟩

theorem ldStVx (x : Reg) : Statement (.ldStVx x) :=
  ⟨by simp only [Instr.row]; decide, by simp only [OpRow.accepts, Instr.row, encode, wordXNN_mask_low]; decide⟩

theorem addI (x : Reg) : Statement (.addI x) :=
  ⟨by simp only [Instr.row]; decide, by simp only [OpRow.accepts, Instr.row, encode, wordXNN_mask_low]; decide⟩

theorem ldF (x : Reg) : Statement (.ldF x) :=
  ⟨by simp only [Instr.row]; decide, by simp only [OpRow.accepts, Instr.row, encode, wordXNN_mask_low]; decide⟩

theorem ldB (x : Reg) : Statement (.ldB x) :=
  ⟨by simp only [Instr.row]; decide, by simp only [OpRow.accepts, Instr.row, encode, wordXNN_mask_low]; decide⟩

theorem stRegs (x : Reg) : Statement (.stRegs x) :=
  ⟨by simp only [Instr.row]; decide, by simp only [OpRow.accepts, Instr.row, encode, wordXNN_mask_low]; decide⟩

theorem ldRegs (x : Reg) : Statement (.ldRegs x) :=
  ⟨by simp only [Instr.row]; decide, by simp only [OpRow.accepts, Instr.row, encode, wordXNN_mask_low]; decide⟩

end Laws.EncodesRow

end Sys2Proof
end

