-- ==== Sys2Proof/Tests/Slice0.lean ====
section
/-! SUPPORT. The model's own tests. Expected results are those of 95_test_vectors.md (T, H, P and W rows) and of the
examples of files 30 to 45, never the model's own answers. Each test is one step, or one transaction, on a small
state. The last part shows, for each statement with hypotheses, a state and operands that meet them. -/

namespace Sys2Proof.Tests

open Sys2Proof Sys2Proof.Machine

/-- The word of four digits, family first, each written as its four bits. -/
def digits (a b c d : BitVec 4) : Word := a ++ b ++ c ++ d

/-- The reset state with a word at `pc`: the start state of the vectors of Part 2. -/
def start (w : Word) : State := State.reset.placeWord w

/-- The reset state with `pc` moved and a word placed there. -/
def startAt (a : Word) (w : Word) : State := (State.reset.setPc a).placeWord w

/-- A component of the next state, if there is one. -/
def seen {α : Type} (f : State → α) : Result → Option α
  | .next t => some (f t)
  | .fault _ => none
  | .refused _ => none

/-- The fault, if there is one. -/
def faultOf : Result → Option Fault
  | .next _ => none
  | .fault f => some f
  | .refused _ => none

/-- Which of the listed cells are set. -/
def setCells (ps : List Nat) (s : State) : List Bool := ps.map (fun p => s.cell p)

/-! ### Ill-formed words are refused, each by its name (R90; T28, T32, T39, T40, T78, T79, T129 to T140) -/

theorem test_illegal_family0 : [0x0000#16, 0x00E1#16, 0x00FF#16, 0x0123#16, 0x0FFF#16].map legalWord =
    [false, false, false, false, false] := by decide

theorem test_illegal_low_digit : [0x5121#16, 0x912F#16].map legalWord = [false, false] := by decide

theorem test_illegal_family8 : [0x8128#16, 0x812F#16, 0x8008#16, 0x800D#16].map legalWord =
    [false, false, false, false] := by decide

theorem test_illegal_familyE : [0xE19F#16, 0xE000#16, 0xE1A2#16].map legalWord = [false, false, false] := by decide

theorem test_illegal_familyF : [0xF000#16, 0xF1FF#16, 0xF154#16, 0xF075#16].map legalWord =
    [false, false, false, false] := by decide

theorem test_decoder_refuses : [0x0000#16, 0x5121#16, 0x912F#16, 0x8128#16, 0x812F#16, 0xE19F#16, 0xF1FF#16].map decode =
    [none, none, none, none, none, none, none] := by decide

theorem test_decodeBytes_illegal : ∃ r, decodeBytes [0x81#8, 0x28#8, 0x00#8] = .error r ∧ r = .illegal 0x8128#16 :=
  ⟨_, rfl, rfl⟩

theorem test_decodeBytes_truncated : ∃ r, decodeBytes [0x12#8] = .error r ∧ r = .truncated := ⟨_, rfl, rfl⟩

theorem test_decodeBytes_rest : ∃ r, decodeBytes [0x12#8, 0x08#8, 0xAB#8] = .ok r ∧ r = (.jp 0x208#12, [0xAB#8]) :=
  ⟨_, rfl, rfl⟩

/-! ### Decoding is right: each pattern of the opcode map (R89) written out bit by bit -/

theorem test_decode_fixed :
    decode (digits 0b0000 0b0000 0b1110 0b0000) = some .cls ∧
    decode (digits 0b0000 0b0000 0b1110 0b1110) = some .ret := by decide

theorem test_decode_nnn :
    decode (digits 0b0001 0b1010 0b1011 0b1100) = some (.jp 0xABC#12) ∧
    decode (digits 0b0010 0b0010 0b0000 0b1000) = some (.call 0x208#12) ∧
    decode (digits 0b1010 0b0001 0b0010 0b0011) = some (.ldI 0x123#12) ∧
    decode (digits 0b1011 0b0010 0b0001 0b0000) = some (.jpV0 0x210#12) := by decide

theorem test_decode_xnn :
    decode (digits 0b0011 0b1010 0b0100 0b0010) = some (.seImm 0xA 0x42#8) ∧
    decode (digits 0b0100 0b1010 0b0100 0b0010) = some (.sneImm 0xA 0x42#8) ∧
    decode (digits 0b0110 0b1100 0b0111 0b1111) = some (.ldImm 0xC 0x7F#8) ∧
    decode (digits 0b0111 0b0011 0b0000 0b1010) = some (.addImm 3 0x0A#8) ∧
    decode (digits 0b1100 0b0001 0b0000 0b1111) = some (.rnd 1 0x0F#8) := by decide

theorem test_decode_registers :
    decode (digits 0b0101 0b0001 0b0010 0b0000) = some (.seReg 1 2) ∧
    decode (digits 0b1001 0b0001 0b0010 0b0000) = some (.sneReg 1 2) ∧
    decode (digits 0b1101 0b1111 0b0010 0b0001) = some (.drw 0xF 2 1) := by decide

theorem test_decode_family8 :
    decode (digits 0b1000 0b1111 0b1010 0b0000) = some (.ldReg 0xF 0xA) ∧
    decode (digits 0b1000 0b0001 0b0010 0b0001) = some (.orReg 1 2) ∧
    decode (digits 0b1000 0b0001 0b0010 0b0010) = some (.andReg 1 2) ∧
    decode (digits 0b1000 0b0001 0b0010 0b0011) = some (.xorReg 1 2) ∧
    decode (digits 0b1000 0b0001 0b0010 0b0100) = some (.addReg 1 2) ∧
    decode (digits 0b1000 0b0001 0b0010 0b0101) = some (.sub 1 2) ∧
    decode (digits 0b1000 0b0001 0b0010 0b0110) = some (.shr 1 2) ∧
    decode (digits 0b1000 0b0001 0b0010 0b0111) = some (.subn 1 2) ∧
    decode (digits 0b1000 0b0001 0b0010 0b1110) = some (.shl 1 2) := by decide

theorem test_decode_familyE :
    decode (digits 0b1110 0b0001 0b1001 0b1110) = some (.skp 1) ∧
    decode (digits 0b1110 0b0001 0b1010 0b0001) = some (.sknp 1) := by decide

theorem test_decode_familyF :
    decode (digits 0b1111 0b0101 0b0000 0b0111) = some (.ldVxDt 5) ∧
    decode (digits 0b1111 0b0110 0b0000 0b1010) = some (.ldVxK 6) ∧
    decode (digits 0b1111 0b0101 0b0001 0b0101) = some (.ldDtVx 5) ∧
    decode (digits 0b1111 0b0101 0b0001 0b1000) = some (.ldStVx 5) ∧
    decode (digits 0b1111 0b0010 0b0001 0b1110) = some (.addI 2) ∧
    decode (digits 0b1111 0b0011 0b0010 0b1001) = some (.ldF 3) ∧
    decode (digits 0b1111 0b0100 0b0011 0b0011) = some (.ldB 4) ∧
    decode (digits 0b1111 0b0010 0b0101 0b0101) = some (.stRegs 2) ∧
    decode (digits 0b1111 0b0010 0b0110 0b0101) = some (.ldRegs 2) := by decide

/-- The table's numbering: bit 0 is the least significant of the one 16-bit word. -/
theorem test_decodeTableWord : decodeTableWord 16 0xD122 = some (.drw 1 2 2) ∧ decodeTableWord 16 0x0123 = none := by
  decide

/-- A placed word runs as the first instruction after reset. -/
theorem test_withFetchWord : seen (fun t => (t.reg 1, t.pc)) (step (State.reset.withFetchWord 16 0x6105)) =
    some (0x05#8, 0x0202#16) := by decide

/-! ### One step of each instruction -/

/-- T104. -/
theorem test_cls : seen (fun t => (setCells [0, 2047] t, t.dirty, t.pc))
    (step ((start 0x00E0#16).setFb ((clearScreen.set 0 1#64).set 31 0x8000000000000000#64))) =
    some ([false, false], true, 0x0202#16) := by decide

/-- T1. -/
theorem test_ret : seen (fun t => (t.pc, t.sp.val, t.slot 0))
    (step (((start 0x00EE#16).setSlot 0 0x0204#16).setSp 1)) = some (0x0204#16, 0, 0x0204#16) := by decide

/-- T3. -/
theorem test_ret_from_full : seen (fun t => (t.pc, t.sp.val))
    (step (((start 0x00EE#16).setSlot 15 0x0ABC#16).setSp 16)) = some (0x0ABC#16, 15) := by decide

/-- T6. -/
theorem test_jp : seen (fun t => t.pc) (step (start 0x1ABC#16)) = some 0x0ABC#16 := by decide

/-- T10. -/
theorem test_call : seen (fun t => (t.slot 0, t.sp.val, t.pc)) (step (startAt 0x0202#16 0x2208#16)) =
    some (0x0204#16, 1, 0x0208#16) := by decide

/-- T11. -/
theorem test_call_sixteenth : seen (fun t => (t.slot 15, t.sp.val, t.pc)) (step ((start 0x2300#16).setSp 15)) =
    some (0x0202#16, 16, 0x0300#16) := by decide

/-- T20. -/
theorem test_seImm_no_skip : seen (fun t => t.pc) (step ((start 0x3A42#16).setReg 10 0x41#8)) = some 0x0202#16 := by
  decide

/-- T22. -/
theorem test_seImm_skips_past_memory : seen (fun t => t.pc) (step (startAt 0x0FFE#16 0x3A00#16)) = some 0x1002#16 := by
  decide

/-- T23. -/
theorem test_sneImm_no_skip : seen (fun t => t.pc) (step ((start 0x4A42#16).setReg 10 0x42#8)) = some 0x0202#16 := by
  decide

/-- T24. -/
theorem test_sneImm_skip : seen (fun t => t.pc) (step ((start 0x4A42#16).setReg 10 0x41#8)) = some 0x0204#16 := by
  decide

/-- T25. -/
theorem test_seReg_skip : seen (fun t => t.pc) (step (((start 0x5120#16).setReg 1 7#8).setReg 2 7#8)) =
    some 0x0204#16 := by decide

/-- T26. -/
theorem test_seReg_no_skip : seen (fun t => t.pc) (step (((start 0x5120#16).setReg 1 7#8).setReg 2 8#8)) =
    some 0x0202#16 := by decide

/-- T29. -/
theorem test_sneReg_skip : seen (fun t => t.pc) (step (((start 0x9120#16).setReg 1 7#8).setReg 2 8#8)) =
    some 0x0204#16 := by decide

/-- T31. -/
theorem test_sneReg_same_register : seen (fun t => t.pc) (step ((start 0x9440#16).setReg 4 0x99#8)) =
    some 0x0202#16 := by decide

/-- T35. -/
theorem test_skp_low_bits : seen (fun t => t.pc) (step (((start 0xE19E#16).setReg 1 0x1A#8).setKey 10 255#8)) =
    some 0x0204#16 := by decide

/-- T36. -/
theorem test_skp_other_key : seen (fun t => t.pc) (step (((start 0xE19E#16).setReg 1 0x0A#8).setKey 11 1#8)) =
    some 0x0202#16 := by decide

/-- T37. -/
theorem test_sknp_skip : seen (fun t => t.pc) (step ((start 0xE1A1#16).setReg 1 3#8)) = some 0x0204#16 := by decide

/-- T38. -/
theorem test_sknp_no_skip : seen (fun t => t.pc) (step (((start 0xE1A1#16).setReg 1 3#8).setKey 3 1#8)) =
    some 0x0202#16 := by decide

/-- T41. -/
theorem test_ldImm : seen (fun t => (t.reg 12, t.pc)) (step (start 0x6C7F#16)) = some (0x7F#8, 0x0202#16) := by decide

/-- T43. -/
theorem test_addImm_wraps : seen (fun t => (t.reg 3, t.reg 15))
    (step (((start 0x730A#16).setReg 3 0xFA#8).setReg 15 1#8)) = some (4#8, 1#8) := by decide

/-- T44. -/
theorem test_addImm_vf : seen (fun t => t.reg 15) (step ((start 0x7F0A#16).setReg 15 0xFA#8)) = some 4#8 := by decide

/-- T46. -/
theorem test_ldReg : seen (fun t => (t.reg 1, t.reg 2)) (step (((start 0x8120#16).setReg 1 1#8).setReg 2 0xAB#8)) =
    some (0xAB#8, 0xAB#8) := by decide

/-- T48. -/
theorem test_orReg : seen (fun t => (t.reg 1, t.reg 15))
    (step ((((start 0x8121#16).setReg 1 0x0F#8).setReg 2 0xF0#8).setReg 15 7#8)) = some (0xFF#8, 7#8) := by decide

/-- T49. -/
theorem test_andReg : seen (fun t => (t.reg 1, t.reg 15))
    (step ((((start 0x8122#16).setReg 1 0x3C#8).setReg 2 0x0F#8).setReg 15 7#8)) = some (0x0C#8, 7#8) := by decide

/-- T50. -/
theorem test_xorReg : seen (fun t => (t.reg 1, t.reg 15))
    (step ((((start 0x8123#16).setReg 1 0xFF#8).setReg 2 0x0F#8).setReg 15 7#8)) = some (0xF0#8, 7#8) := by decide

/-- T51. -/
theorem test_xorReg_same_register : seen (fun t => t.reg 1) (step ((start 0x8113#16).setReg 1 0x5A#8)) = some 0#8 := by
  decide

/-- T55. -/
theorem test_addReg_255_no_carry : seen (fun t => (t.reg 1, t.reg 15))
    (step (((start 0x8124#16).setReg 1 0xFF#8).setReg 15 1#8)) = some (0xFF#8, 0#8) := by decide

/-- T57. -/
theorem test_addReg_reads_old_vf : seen (fun t => (t.reg 1, t.reg 15))
    (step (((start 0x81F4#16).setReg 1 0xF0#8).setReg 15 0x20#8)) = some (0x10#8, 1#8) := by decide

/-- T62. -/
theorem test_sub_borrow : seen (fun t => (t.reg 1, t.reg 15))
    (step ((((start 0x8125#16).setReg 1 3#8).setReg 2 0x0A#8).setReg 15 1#8)) = some (0xF9#8, 0#8) := by decide

/-- T64. -/
theorem test_sub_into_vf : seen (fun t => t.reg 15) (step (((start 0x8F15#16).setReg 15 5#8).setReg 1 3#8)) =
    some 1#8 := by decide

/-- T66. -/
theorem test_shr : seen (fun t => (t.reg 1, t.reg 15)) (step (((start 0x8126#16).setReg 1 5#8).setReg 2 0xFF#8)) =
    some (2#8, 1#8) := by decide

/-- T67, the other value of the parameter. -/
theorem test_shr_from_vy : seen (fun t => (t.reg 1, t.reg 15))
    (shiftRightWith .vy 1 2 (((start 0x8126#16).setReg 1 5#8).setReg 2 0xFE#8)) = some (0x7F#8, 0#8) := by decide

/-- T72. -/
theorem test_subn_borrow : seen (fun t => (t.reg 1, t.reg 15))
    (step ((((start 0x8127#16).setReg 1 0x0A#8).setReg 2 3#8).setReg 15 1#8)) = some (0xF9#8, 0#8) := by decide

/-- T73. -/
theorem test_subn_equal : seen (fun t => (t.reg 1, t.reg 15))
    (step (((start 0x8127#16).setReg 1 5#8).setReg 2 5#8)) = some (0#8, 1#8) := by decide

/-- T74. -/
theorem test_shl : seen (fun t => (t.reg 1, t.reg 15)) (step ((start 0x812E#16).setReg 1 0x81#8)) =
    some (2#8, 1#8) := by decide

/-- T76, the other value of the parameter. -/
theorem test_shl_from_vy : seen (fun t => (t.reg 1, t.reg 15))
    (shiftLeftWith .vy 1 2 (((start 0x812E#16).setReg 1 1#8).setReg 2 0xC0#8)) = some (0x80#8, 1#8) := by decide

/-- T85. -/
theorem test_ldI : seen (fun t => (t.i, t.pc)) (step ((start 0xAFFF#16).setI 0xF123#16)) =
    some (0x0FFF#16, 0x0202#16) := by decide

/-- T15. -/
theorem test_jpV0_uses_v0 : seen (fun t => t.pc) (step (((start 0xB210#16).setReg 0 2#8).setReg 2 0x55#8)) =
    some 0x0212#16 := by decide

/-- T16. -/
theorem test_jpV0_not_masked : seen (fun t => t.pc) (step ((start 0xBFFF#16).setReg 0 0xFF#8)) = some 0x10FE#16 := by
  decide

/-- R131: one draw is consumed, `pc` advances; the byte drawn is free and no test expects one. -/
theorem test_rnd : seen (fun t => (t.draws, t.reg 2, t.pc)) (step ((start 0xC10F#16).setReg 2 9#8)) =
    some (1, 9#8, 0x0202#16) := by rfl

/-- T82. -/
theorem test_rnd_zero_mask : seen (fun t => t.reg 1) (step ((start 0xC100#16).setReg 1 0x77#8)) = some 0#8 := by
  have h : ∀ b : Byte, (b &&& 0#8) = 0#8 := by decide
  show some ((Config.randByte 0) &&& 0#8) = some 0#8
  rw [h]

/-- T111: under wrap, columns 4 to 7 land at the left edge of the same row and row 32 lands on row 0. -/
theorem test_drw_wraps : seen (fun t => (setCells [3, 60, 1983, 1984, 1987, 1988, 2043, 2044, 2047] t, t.reg 15, t.dirty))
    (step (((((start 0xD122#16).setReg 1 0x3C#8).setReg 2 0x1F#8).setI 0x0300#16).setMem
      ((start 0xD122#16).mem.writeBytes 0x300 [0xFF#8, 0x81#8]))) =
    some ([true, true, false, true, true, false, false, true, true], 0#8, true) := by decide

/-- T108: one cell goes from 1 to 0. -/
theorem test_drw_collides : seen (fun t => (setCells [325, 326, 327, 328, 389, 390, 392] t, t.reg 15, t.dirty, t.pc))
    (step ((((start 0xD122#16).setReg 1 5#8).setReg 2 5#8).setFb (clearScreen.set 5 0x20#64))) =
    some ([false, true, true, true, true, false, true], 1#8, true, 0x0202#16) := by decide

/-- T121. -/
theorem test_ldVxDt : seen (fun t => (t.reg 5, t.dt)) (step ((start 0xF507#16).setDt 42#8)) = some (42#8, 42#8) := by
  decide

/-- T126. -/
theorem test_ldVxK_lowest : seen (fun t => (t.reg 6, t.pc)) (step (((start 0xF60A#16).setKey 7 1#8).setKey 3 128#8)) =
    some (3#8, 0x0202#16) := by decide

/-- T125. -/
theorem test_ldVxK_waits : (perform .step ((start 0xF60A#16).setReg 6 0x55#8)).1 = .waiting ∧
    (perform .step ((start 0xF60A#16).setReg 6 0x55#8)).2 = (start 0xF60A#16).setReg 6 0x55#8 := by decide

/-- T145. -/
theorem test_ldDtVx : seen (fun t => (t.dt, t.reg 15)) (step ((start 0xFF15#16).setDt 200#8)) = some (0#8, 0#8) := by
  decide

/-- T124. -/
theorem test_ldStVx : seen (fun t => (t.st, t.dt)) (step (((start 0xF518#16).setReg 5 1#8).setDt 4#8)) =
    some (1#8, 4#8) := by decide

/-- T87. -/
theorem test_addI_no_flag : seen (fun t => (t.i, t.reg 15))
    (step ((((start 0xF21E#16).setReg 2 1#8).setI 0x0FFF#16).setReg 15 5#8)) = some (0x1000#16, 5#8) := by decide

/-- T88. -/
theorem test_addI_wraps : seen (fun t => t.i) (step (((start 0xF21E#16).setReg 2 2#8).setI 0xFFFF#16)) =
    some 1#16 := by decide

/-- T90. -/
theorem test_ldF_not_masked : seen (fun t => t.i) (step ((start 0xF329#16).setReg 3 0xFF#8)) = some 0x04FB#16 := by
  decide

/-- T93: the last position that fits. -/
theorem test_ldB : seen (fun t => (t.byteAt 0xFFD, t.byteAt 0xFFE, t.byteAt 0xFFF))
    (step (((start 0xF433#16).setReg 4 0x7B#8).setI 0x0FFD#16)) = some (1#8, 2#8, 3#8) := by decide

/-- T94: nothing is written where the third byte is out of range. -/
theorem test_ldB_out_of_range : faultOf (step (((start 0xF433#16).setReg 4 0x7B#8).setI 0x0FFE#16)) =
    some (.memoryOutOfBounds 4096) := by decide

/-- T96. -/
theorem test_stRegs : seen (fun t => (t.byteAt 0x400, t.byteAt 0x402, t.byteAt 0x403, t.i))
    (step (((((start 0xF255#16).setReg 0 0x11#8).setReg 2 0x33#8).setReg 3 0x44#8).setI 0x0400#16)) =
    some (0x11#8, 0x33#8, 0#8, 0x0400#16) := by decide

/-- T97: a store into the instruction stream. -/
theorem test_stRegs_seen_by_fetch : seen (fun t => (t.byteAt 0x202, t.wordAt t.pc.toNat))
    (step (((start 0xF055#16).setReg 0 0x12#8).setI 0x0202#16)) = some (0x12#8, 0x1200#16) := by decide

/-- T101: the font is read, V3 stays. -/
theorem test_ldRegs : seen (fun t => (t.reg 0, t.reg 1, t.reg 2, t.reg 3))
    (step ((start 0xF265#16).setReg 3 0x44#8)) = some (0xF0#8, 0x90#8, 0x90#8, 0x44#8) := by decide

/-- T103. -/
theorem test_ldRegs_out_of_range : faultOf (step ((start 0xFF65#16).setI 0x0FF1#16)) =
    some (.memoryOutOfBounds 4096) := by decide

/-! ### Faults of the step -/

/-- T129. -/
theorem test_zero_word_faults : faultOf (step ((start 0x0000#16).setSp 2)) = some (.decodeFault 0x0000#16) := by decide

/-- T12. -/
theorem test_call_overflow : faultOf (step ((start 0x2300#16).setSp 16)) = some .stackOverflow := by decide

/-- T142: the last address that can be fetched from. -/
theorem test_ret_underflow_at_last_address : faultOf (step (startAt 0x0FFE#16 0x00EE#16)) = some .stackUnderflow := by
  decide

/-- T141, T17: the fetch fault comes first, and carries the lowest address out of range. -/
theorem test_fetch_out_of_range :
    faultOf (step (State.reset.setPc 0x0FFF#16)) = some (.memoryOutOfBounds 4096) ∧
    faultOf (step (State.reset.setPc 0x10FE#16)) = some (.memoryOutOfBounds 4350) := by decide

/-- T18: an odd `pc`. -/
theorem test_odd_pc : seen (fun t => (t.reg 1, t.pc)) (step (startAt 0x0201#16 0x612A#16)) =
    some (0x2A#8, 0x0203#16) := by decide

/-! ### The other transactions -/

/-- H3. -/
theorem test_tick : (perform .tick ((State.reset.setDt 255#8).setSt 1#8)).2 =
    (State.reset.setDt 254#8).setSt 0#8 := by decide

/-- H6. -/
theorem test_keys : (perform (.keys 3 0#8) ((State.reset.setKey 3 1#8).setKey 4 1#8)).2 = State.reset.setKey 4 1#8 := by
  decide

/-- H8. -/
theorem test_frameAck : (perform .frameAck ((State.reset.setDirty true).setFb (clearScreen.set 0 0x20#64))).2 =
    State.reset.setFb (clearScreen.set 0 0x20#64) := by decide

/-- H14: LOAD clears nothing. -/
theorem test_load : (perform (.load [0xAB#8]) (State.reset.setMem [(0x201, 0x77#8)])) =
    (.ok, State.reset.setMem [(0x200, 0xAB#8), (0x201, 0x77#8)]) := by decide

/-- H15, in part: memory overwritten is font and zeros again. -/
theorem test_reset : ((perform .reset ((State.reset.setMem [(0x000, 0x00#8), (0x200, 0x12#8)]).setReg 3 9#8)).2.byteAt 0,
    (perform .reset ((State.reset.setMem [(0x000, 0x00#8), (0x200, 0x12#8)]).setReg 3 9#8)).2.byteAt 0x200) =
    (0xF0#8, 0x00#8) := by decide

/-- The canonical form: writing what an address reads as unlisted takes its entry out. -/
theorem test_memory_canonical : Memory.write (Memory.write [] 0x300 5#8) 0x300 0#8 = [] ∧
    Memory.write (Memory.write [] 0x301 5#8) 0x300 6#8 = [(0x300, 6#8), (0x301, 5#8)] := by decide

/-! ### Witnesses: a state and operands that meet each statement's hypotheses -/

theorem test_witness_EncodeInvertsDecode : decode 0xDF21#16 = some (.drw 0xF 2 1) := by decide

theorem test_witness_DecoderFollowsOpcodeMap :
    ⟨"SKP", 0xE09E#16, 0xF0FF#16⟩ ∈ opcodeMap ∧ OpRow.accepts ⟨"SKP", 0xE09E#16, 0xF0FF#16⟩ 0xE19E#16 = true := by decide

theorem test_witness_OpcodeMapRowsAreDisjoint :
    ⟨"CLS", 0x00E0#16, 0xFFFF#16⟩ ∈ opcodeMap ∧ OpRow.accepts ⟨"CLS", 0x00E0#16, 0xFFFF#16⟩ 0x00E0#16 = true := by decide

theorem test_witness_StepFetchesDecodesExecutes :
    (State.reset.setPc 0x0FFF#16).pc.toNat > 4094 ∧
    ((startAt 0x0FFE#16 0x5121#16).pc.toNat ≤ 4094 ∧
      decode (bytesWord ((startAt 0x0FFE#16 0x5121#16).byteAt 4094) ((startAt 0x0FFE#16 0x5121#16).byteAt 4095)) = none) ∧
    ((startAt 0x0FFE#16 0x1ABC#16).pc.toNat ≤ 4094 ∧
      decode (bytesWord ((startAt 0x0FFE#16 0x1ABC#16).byteAt 4094) ((startAt 0x0FFE#16 0x1ABC#16).byteAt 4095)) =
        some (.jp 0xABC#12)) := by decide

theorem test_witness_PlacedWordIsExecuted : (State.reset.setPc 0x0FFE#16).pc.toNat ≤ 4094 := by decide

/-- Each of the five places at its first value out of range: T9, T118, T94, T99, T103. -/
theorem test_witness_OutOfBoundsArisesInFivePlaces :
    faultOf (step (State.reset.setPc 0x0FFF#16)) = some (.memoryOutOfBounds 4096) ∧
    faultOf (step ((start 0xD122#16).setI 0x0FFF#16)) = some (.memoryOutOfBounds 4096) ∧
    faultOf (step ((start 0xF433#16).setI 0x0FFE#16)) = some (.memoryOutOfBounds 4096) ∧
    faultOf (step ((start 0xFF55#16).setI 0x0FF1#16)) = some (.memoryOutOfBounds 4096) ∧
    faultOf (step ((start 0xFF65#16).setI 0x0FF1#16)) = some (.memoryOutOfBounds 4096) := by decide

theorem test_witness_OutOfBoundsCarriesLowestAddress :
    faultOf (step (State.reset.setPc 0x0FFF#16)) = some (.memoryOutOfBounds 4096) ∧
    faultOf (step ((start 0xD122#16).setI 0x0FFF#16)) = some (.memoryOutOfBounds 4096) := by decide

theorem test_witness_StackFaultsAriseExactlyAtTheLimits :
    (((start 0x2300#16).setSp 16).pc.toNat ≤ 4094 ∧ ((start 0x2300#16).setSp 16).sp.val = 16 ∧
      decode (((start 0x2300#16).setSp 16).wordAt 0x200) = some (.call 0x300#12)) ∧
    ((start 0x00EE#16).sp.val = 0 ∧ decode ((start 0x00EE#16).wordAt 0x200) = some .ret) ∧
    State.reset.sp.val + (List.replicate 16 0x200#12).length ≤ 16 ∧
    State.reset.sp.val + (List.replicate 17 0x200#12).length > 16 := by decide

/-- Rows 0 to 4 of R174's table, row 0 for `Done` and for `Waiting`: T7, T125, T129, T12, T2, T9. -/
theorem test_fault_codes_of_step :
    (perform .step (start 0x1200#16)).1.code = some 0 ∧ (perform .step (start 0xF60A#16)).1.code = some 0 ∧
    (perform .step (start 0x0000#16)).1.code = some 1 ∧
    (perform .step ((start 0x2300#16).setSp 16)).1.code = some 2 ∧ (perform .step (start 0x00EE#16)).1.code = some 3 ∧
    (perform .step (State.reset.setPc 0x0FFF#16)).1.code = some 4 := by decide

/-- Row 5: H13. -/
theorem test_fault_code_of_load : (perform (.load (List.replicate 3585 0xFF#8)) State.reset).1.code = some 5 := by
  have h : (List.replicate 3585 0xFF#8).length > Config.maxImage := by rw [List.length_replicate]; decide
  simp only [perform, loadProgram, if_pos h, raise, loadReply, Reply.code, Fault.code]

theorem test_witness_FaultAndWaitingLeaveStateUnmodified :
    (perform .step (start 0xF60A#16)).1 = .waiting ∧ (perform .step (start 0x0123#16)).1 = .fault (.decodeFault 0x0123#16) ∧
    (perform .step (State.reset.setPc 0x0FFF#16)).1 = .fault (.memoryOutOfBounds 4096) := by decide

theorem test_witness_WaitingIsKeyWaitWithNoKeyPressed :
    (startAt 0x0FFE#16 0xFF0A#16).pc.toNat ≤ 4094 ∧
    decode ((startAt 0x0FFE#16 0xFF0A#16).wordAt 4094) = some (.ldVxK 15) ∧
    (∀ k : Reg, (startAt 0x0FFE#16 0xFF0A#16).key k = 0#8) := by decide

theorem test_witness_ReturnPopsTheStack :
    State.reset.sp.val = 0 ∧ (State.reset.setSp 1).sp.val = (0 : Fin 16).val + 1 ∧
    (State.reset.setSp 16).sp.val = (15 : Fin 16).val + 1 ∧
    (((State.reset.setSp 16).setSlot 15 0x1000#16).slot 15).toNat > 4094 := by decide

theorem test_witness_JumpSetsPc : (0xFFF#12).toNat = 0xFFF := by decide

theorem test_witness_CallPushesAndJumps : (State.reset.setSp 16).sp.val = 16 ∧ State.reset.sp.val = (0 : Fin 16).val ∧
    (State.reset.setSp 15).sp.val = (15 : Fin 16).val := by decide

/-- Program P2's call with the return placed at its target, and the stack almost full. -/
theorem test_witness_ReturnAfterCallComesBack :
    ((start 0x2208#16).setSp 15).pc.toNat ≤ 4094 ∧ ((start 0x2208#16).setSp 15).sp.val = (15 : Fin 16).val ∧
    (0x208#12).toNat ≤ 4094 ∧
    ((((start 0x2208#16).setSp 15).setMem ((start 0x2208#16).mem.writeBytes 0x208 [0x00#8, 0xEE#8])).wordAt 0x200 =
      wordNNN 0x2#4 0x208#12) ∧
    ((((start 0x2208#16).setSp 15).setMem ((start 0x2208#16).mem.writeBytes 0x208 [0x00#8, 0xEE#8])).wordAt 0x208 =
      0x00EE#16) := by decide

/-- T7. -/
theorem test_witness_JumpToItselfRunsForEver : (start 0x1200#16).pc.toNat ≤ 4094 ∧
    (0x200#12).toNat = (start 0x1200#16).pc.toNat ∧ (start 0x1200#16).wordAt 0x200 = wordNNN 0x1#4 0x200#12 := by decide

theorem test_witness_SkipOnKey : ((State.reset.setReg 1 0x1A#8).reg 1).toNat % 16 = (10 : Reg).val ∧
    ((State.reset.setReg 1 0xFF#8).reg 1).toNat % 16 = (15 : Reg).val := by decide

/-- A register that is not the destination, for the statements that keep every other register. -/
theorem test_witness_LoadImmediateSetsRegister : (15 : Reg) ≠ 0 := by decide

theorem test_witness_AddImmediateWraps : (15 : Reg) ≠ 3 ∧ ((State.reset.setReg 3 0xFA#8).reg 3).toNat + (0x0A#8).toNat > 255 := by
  decide

theorem test_witness_AssignAndLogicWorkBitwise : (15 : Reg) ≠ 1 := by decide

/-- T55 and T54: the sums 255 and 256, x other than F, and a third register. -/
theorem test_witness_AddRegistersSetsCarry : (1 : Reg) ≠ 15 ∧ (2 : Reg) ≠ 1 ∧ (2 : Reg) ≠ 15 ∧
    ¬ ((State.reset.setReg 1 0xFF#8).reg 1).toNat + (State.reset.reg 2).toNat > 255 ∧
    (((State.reset.setReg 1 0xFF#8).setReg 2 1#8).reg 1).toNat + (((State.reset.setReg 1 0xFF#8).setReg 2 1#8).reg 2).toNat > 255 := by
  decide

/-- T63 and a borrow of one. -/
theorem test_witness_SubtractSetsNotBorrow : (1 : Reg) ≠ 15 ∧ (2 : Reg) ≠ 1 ∧
    ¬ ((State.reset.setReg 1 5#8).setReg 2 5#8).reg 1 < ((State.reset.setReg 1 5#8).setReg 2 5#8).reg 2 ∧
    ((State.reset.setReg 1 4#8).setReg 2 5#8).reg 1 < ((State.reset.setReg 1 4#8).setReg 2 5#8).reg 2 := by decide

theorem test_witness_ShiftsMoveOneBit : (1 : Reg) ≠ 15 ∧ (2 : Reg) ≠ 1 ∧ (2 : Reg) ≠ 15 := by decide

/-- T82. -/
theorem test_witness_RandomIsTheMaskedDraw : (2 : Reg) ≠ 1 ∧ ∃ nn : Byte, nn = 0#8 := ⟨by decide, 0#8, rfl⟩

theorem test_witness_TimerInstructionsCopy : (0 : Reg) ≠ 15 := by decide

/-- H6. -/
theorem test_witness_KeysAndFrameAckWriteOnlyTheirs : (4 : Reg) ≠ 3 := by decide

/-- The last byte of the font and the first byte above it. -/
theorem test_witness_ResetLeavesTheStatedValues : 5 * (15 : Fin 16).val + (4 : Fin 5).val = 79 ∧ 80 ≤ 80 := by decide

theorem test_witness_StoreDecimalDigits : (State.reset.setI 0x0FFD#16).i.toNat + 2 ≤ 4095 ∧
    (State.reset.setI 0x0FFE#16).i.toNat + 2 > 4095 := by decide

theorem test_witness_StoreRegistersThroughX :
    (State.reset.setI 0x0FF0#16).i.toNat + (15 : Reg).val ≤ 4095 ∧ (State.reset.setI 0x0FF1#16).i.toNat + (15 : Reg).val > 4095 ∧
    (State.reset.setI 0x0FFF#16).i.toNat + (0 : Reg).val ≤ 4095 ∧ (State.reset.setI 0x1000#16).i.toNat + (0 : Reg).val > 4095 := by
  decide

theorem test_witness_LoadRegistersThroughX :
    (State.reset.setI 0x0FF0#16).i.toNat + (15 : Reg).val ≤ 4095 ∧ (State.reset.setI 0xFFFF#16).i.toNat + (15 : Reg).val > 4095 := by
  decide

/-- The state between the two instructions may hold other registers, as after the sixteen loads of X5. -/
theorem test_witness_StoreThenLoadRecoversRegisters :
    ((State.reset.setI 0x0FF0#16).setReg 3 0xA3#8).i.toNat + (15 : Reg).val ≤ 4095 ∧
    ∃ t u : State, exec (.stRegs 15) ((State.reset.setI 0x0FF0#16).setReg 3 0xA3#8) = .next t ∧
      u = t.setReg 3 0#8 ∧ u.i = t.i ∧ ∀ a : Nat, u.byteAt a = t.byteAt a :=
  ⟨by decide, _, _, rfl, rfl, rfl, fun _ => rfl⟩

theorem test_witness_StoreIsSeenByNextFetch :
    (State.reset.setI 0x0202#16).i.toNat + (1 : Reg).val ≤ 4095 ∧ (1 : Reg).val = (0 : Reg).val + 1 ∧
    ((State.reset.setI 0x0202#16).pc + 2#16).toNat = (State.reset.setI 0x0202#16).i.toNat + (0 : Reg).val := by decide

theorem test_witness_DrawLoopIsTheCollisionDetector :
    ((0 : Fin 16).val = 0 ∧ (State.reset.setI 0xFFFF#16).i.toNat = 65535) ∧
    (State.reset.setI 0x0FF1#16).i.toNat + (15 : Fin 16).val ≤ 4096 := by decide

/-- A touched cell, set and unset, and an untouched one: T108. -/
theorem test_witness_DrawEffect :
    Touches .wrap 1 2 2 ((State.reset.setReg 1 5#8).setReg 2 5#8) 325 ∧
    ((State.reset.setReg 1 5#8).setReg 2 5#8).cell 325 = false ∧
    (((State.reset.setReg 1 5#8).setReg 2 5#8).setFb (clearScreen.set 5 0x20#64)).cell 325 = true ∧
    ¬ Touches .wrap 1 2 0 State.reset 325 := by
  refine ⟨⟨0, 0, by decide, by decide, by decide, by decide⟩, by decide, by decide, ?_⟩
  intro ⟨r, _, h, _⟩
  exact absurd h (by simp)

theorem test_witness_DrawFaultsOnlyWithRowsOutOfRange :
    ((1 : Fin 16).val > 0 ∧ (State.reset.setI 0x1000#16).i.toNat + (1 : Fin 16).val > 4096) ∧
    ((15 : Fin 16).val > 0 ∧ (State.reset.setI 0x0FF2#16).i.toNat + (15 : Fin 16).val > 4096) ∧ (0 : Fin 16).val = 0 := by
  decide

theorem test_witness_DrawVisitsNoCellTwice : 2047 ∈ spriteOf .wrap 1 2 1 ((State.reset.setReg 1 63#8).setReg 2 31#8) := by
  decide

/-- x = y = F with VF = 0 and the screen clear: the first draw leaves VF as it was. -/
theorem test_witness_DrawTwiceRestoresTheScreen_flag :
    seen (fun t => t.reg 15) (exec (.drw 15 15 2) State.reset) = some (State.reset.reg 15) := by decide

/-- With the screen clear the touched cells are 0; the font's first byte has 1 bits; a sprite of no rows has none. -/
theorem test_witness_DrawTwiceRestoresTheScreen :
    ((1 : Reg) ≠ 15 ∧ (2 : Reg) ≠ 15 ∧ State.reset.i.toNat + (2 : Fin 16).val ≤ 4096) ∧
    (∀ p : Nat, Touches .wrap 1 2 2 State.reset p → State.reset.cell p = false) ∧
    (∃ p : Nat, Touches .wrap 1 2 2 State.reset p) ∧ ¬ ∃ p : Nat, Touches .wrap 1 2 0 State.reset p := by
  refine ⟨by decide, fun p _ => ?_, ⟨0, 0, 0, by decide, by decide, by decide, by decide⟩, ?_⟩
  · exact cellOf_clearScreen p
  · intro ⟨p, r, _, h, _⟩
    exact absurd h (by simp)

theorem test_witness_KeyWaitTakesLowestPressedKey :
    (∀ k : Reg, State.reset.key k = 0#8) ∧
    ((State.reset.setKey 0 1#8).key 0 ≠ 0#8 ∧ ∀ j : Reg, j < 0 → (State.reset.setKey 0 1#8).key j = 0#8) ∧
    ((State.reset.setKey 15 128#8).key 15 ≠ 0#8 ∧ ∀ j : Reg, j < 15 → (State.reset.setKey 15 128#8).key j = 0#8) := by
  decide

/-- H12, H13. -/
theorem test_witness_LoadCopiesTheImage : (List.replicate 3584 0xFF#8).length ≤ 3584 ∧
    (List.replicate 3585 0xFF#8).length > 3584 :=
  ⟨by rw [List.length_replicate], by rw [List.length_replicate]; decide⟩

theorem test_witness_ComponentsChangeOnlyByTheirWriters : ∃ t : State, exec (.stRegs 15) State.reset = .next t ∧
    Component.fb ∉ mayWrite (.stRegs 15) := ⟨_, rfl, by decide⟩

theorem test_witness_RegistersChangeOnlyAsNamed :
    (∃ t : State, exec (.ldRegs 14) State.reset = .next t ∧ mayWriteReg (.ldRegs 14) 15 = false) ∧
    ∃ t : State, exec (.drw 1 2 2) State.reset = .next t ∧ mayWriteReg (.drw 1 2 2) 1 = false :=
  ⟨⟨_, rfl, by decide⟩, _, rfl, by decide⟩

theorem test_witness_FlagWritersLeaveZeroOrOne :
    ∃ t : State, writesFlag (.subn 15 15) = true ∧ exec (.subn 15 15) State.reset = .next t := ⟨_, rfl, rfl⟩

/-- The bytes just below and just above three stored digits, at the last position that fits. -/
theorem test_witness_MemoryChangesOnlyWhereStored :
    ∃ t : State, exec (.ldB 0) (State.reset.setI 0x0FFD#16) = .next t ∧ 0xFFC < (State.reset.setI 0x0FFD#16).i.toNat ∧
      (State.reset.setI 0x0FFD#16).i.toNat + storeLength (.ldB 0) ≤ 4096 := ⟨_, rfl, by decide, by decide⟩

theorem test_witness_PcAdvancesAsTabulated :
    (∃ t : State, exec .ret (State.reset.setSp 16) = .next t) ∧
    (perform .step (start 0x00EE#16)).1 = .fault .stackUnderflow := ⟨⟨_, rfl⟩, by decide⟩

theorem test_witness_NoInstructionReadsDirtyOrSoundTimer :
    faultOf (exec .ret ((State.reset.setDirty true).setSt 1#8)) = some .stackUnderflow ∧
    ∃ t : State, exec (.ldVxDt 3) State.reset = .next t := ⟨by decide, _, rfl⟩

/-- A state with a program in memory, a full stack of the largest return addresses, and a call's return. -/
theorem test_witness_EveryStepKeepsTheInvariant :
    ∃ s t : State, s = ((start 0x00EE#16).setSp 16).setSlot 15 0x1000#16 ∧ s.Inv ∧ step s = .next t := by
  refine ⟨_, _, rfl, ⟨by decide, by decide, by decide⟩, rfl⟩

/-- The same invariant at a state other than reset, for any sequence of transactions: H15's registers. -/
theorem test_witness_EveryRunKeepsTheInvariant : ((State.reset.setPc 0x10FE#16).setSp 4).Inv :=
  ⟨by decide, by decide, by decide⟩

end Sys2Proof.Tests
end

/-! SUPPORT. What a completed instruction leaves unchanged, component by component, and what the writers of memory, of
the stack and of `pc` leave in theirs; from these the rules of the whole machine and the invariant (10_state.md). -/

namespace Sys2Proof.Machine

/-! ### The content of a component, and what each update leaves of it -/

/-- The type of a component's content (R20). -/
abbrev Component.Content : Component → Type
  | .mem => Memory
  | .v => Vector Byte 16
  | .i => Word
  | .pc => Word
  | .stack => Vector Word 16
  | .sp => Fin 17
  | .dt => Byte
  | .st => Byte
  | .fb => FrameBuffer
  | .dirty => Bool
  | .keys => Vector Byte 16
  | .draws => Nat

/-- The content of a component: the field of the state that holds it (R20). -/
def Component.get : (c : Component) → State → c.Content
  | .mem, s => s.mem
  | .v, s => s.v
  | .i, s => s.i
  | .pc, s => s.pc
  | .stack, s => s.stack
  | .sp, s => s.sp
  | .dt, s => s.dt
  | .st, s => s.st
  | .fb, s => s.fb
  | .dirty, s => s.dirty
  | .keys, s => s.keys
  | .draws, s => s.draws

/-- Two states that hold the same field in a component read the same there: the readers of `SameAt` look at no other
field. -/
theorem sameAt_of_get_eq {c : Component} {s t : State} (h : c.get t = c.get s) : SameAt c s t := by
  cases c
  case mem => exact fun a => congrArg (Memory.read · a) h
  case v => exact fun x => congrArg (fun v : Vector Byte 16 => v[x]) h
  case stack => exact fun k => congrArg (fun v : Vector Word 16 => v[k]) h
  case fb => exact fun p => congrArg (cellOf · p) h
  case keys => exact fun k => congrArg (fun v : Vector Byte 16 => v[k]) h
  all_goals exact h

section
variable {c : Component} (s : State)

@[simp] theorem Component.get_setReg (h : c ≠ .v) (x : Reg) (b : Byte) : c.get (s.setReg x b) = c.get s := by
  cases c <;> trivial
@[simp] theorem Component.get_setRegs (h : c ≠ .v) (w : Vector Byte 16) : c.get (s.setRegs w) = c.get s := by
  cases c <;> trivial
@[simp] theorem Component.get_setI (h : c ≠ .i) (w : Word) : c.get (s.setI w) = c.get s := by
  cases c <;> trivial
@[simp] theorem Component.get_setPc (h : c ≠ .pc) (w : Word) : c.get (s.setPc w) = c.get s := by
  cases c <;> trivial
@[simp] theorem Component.get_setMem (h : c ≠ .mem) (m : Memory) : c.get (s.setMem m) = c.get s := by
  cases c <;> trivial
@[simp] theorem Component.get_setSlot (h : c ≠ .stack) (k : Fin 16) (w : Word) : c.get (s.setSlot k w) = c.get s := by
  cases c <;> trivial
@[simp] theorem Component.get_setSp (h : c ≠ .sp) (n : Fin 17) : c.get (s.setSp n) = c.get s := by
  cases c <;> trivial
@[simp] theorem Component.get_setDt (h : c ≠ .dt) (b : Byte) : c.get (s.setDt b) = c.get s := by
  cases c <;> trivial
@[simp] theorem Component.get_setSt (h : c ≠ .st) (b : Byte) : c.get (s.setSt b) = c.get s := by
  cases c <;> trivial
@[simp] theorem Component.get_setFb (h : c ≠ .fb) (f : FrameBuffer) : c.get (s.setFb f) = c.get s := by
  cases c <;> trivial
@[simp] theorem Component.get_setDirty (h : c ≠ .dirty) (d : Bool) : c.get (s.setDirty d) = c.get s := by
  cases c <;> trivial
@[simp] theorem Component.get_setKey (h : c ≠ .keys) (k : Reg) (b : Byte) : c.get (s.setKey k b) = c.get s := by
  cases c <;> trivial
@[simp] theorem Component.get_setDraws (h : c ≠ .draws) (n : Nat) : c.get (s.setDraws n) = c.get s := by
  cases c <;> trivial

end

/-! ### The instructions with a condition: when they complete, and what they then leave -/

theorem checkRange_next_eq_next {a len : Nat} {u t : State} :
    checkRange a len (.next u) = .next t ↔ ¬ OutOfRange a len ∧ u = t := by
  rw [checkRange_eq_next, Host.Outcome.next.injEq]

theorem exec_ret_eq_next {s t : State} : exec .ret s = .next t ↔
    ∃ h : 0 < s.sp.val,
      t = (s.setSp ⟨s.sp.val - 1, by omega⟩).setPc (s.slot ⟨s.sp.val - 1, by omega⟩) := by
  unfold exec execRet
  cases hp : s.pop with
  | none =>
    have hempty := State.pop_eq_none.1 hp
    exact iff_of_false nofun fun ⟨h, _⟩ => by omega
  | some p =>
    obtain ⟨h, hw, hu⟩ := State.pop_eq_some.1 hp
    simp [h, hw, hu, eq_comm]

theorem exec_call_eq_next {nnn : Addr12} {s t : State} : exec (.call nnn) s = .next t ↔
    ∃ h : s.sp.val < 16,
      t = ((s.setSlot ⟨s.sp.val, h⟩ s.pcNext).setSp ⟨s.sp.val + 1, by omega⟩).setPc (target nnn) := by
  unfold exec execCall
  cases hp : s.push s.pcNext with
  | none =>
    have hfull := State.push_eq_none.1 hp
    exact iff_of_false nofun fun ⟨h, _⟩ => by omega
  | some u =>
    obtain ⟨h, hu⟩ := State.push_eq_some.1 hp
    simp [h, hu, eq_comm]

theorem exec_ldVxK_eq_next {x : Reg} {s t : State} : exec (.ldVxK x) s = .next t ↔
    (s.firstPressed = none ∧ t = s) ∨
      ∃ k, s.firstPressed = some k ∧ t = (s.setReg x (codeByte k)).advance := by
  unfold exec execLdVxK finishReg
  cases s.firstPressed <;> simp [eq_comm]

/-! ### The frame -/

/-- A completed instruction keeps the field of every component it is not listed as a writer of (R20). -/
theorem exec_get {i : Instr} {s t : State} {c : Component} (h : exec i s = .next t) (hc : c ∉ mayWrite i) :
    c.get t = c.get s := by
  cases i with
  | ret =>
    obtain ⟨-, rfl⟩ := exec_ret_eq_next.1 h
    simp_all [mayWrite]
  | call nnn =>
    obtain ⟨-, rfl⟩ := exec_call_eq_next.1 h
    simp_all [mayWrite]
  | ldVxK x =>
    obtain ⟨-, rfl⟩ | ⟨k, -, rfl⟩ := exec_ldVxK_eq_next.1 h
    · rfl
    · simp_all [mayWrite]
  | drw | ldB | stRegs | ldRegs =>
    obtain ⟨-, rfl⟩ := checkRange_next_eq_next.1 h
    simp_all [mayWrite]
  | _ =>
    obtain rfl := Host.Outcome.next.inj h
    simp_all [mayWrite]

/-- Settles O52, from the frame of the fields. -/
theorem componentsChangeOnlyByTheirWriters : Obligations.ComponentsChangeOnlyByTheirWriters :=
  fun _ _ _ h _ hc => sameAt_of_get_eq (exec_get h hc)

/-! ### The general registers -/

/-- Settles O53: only the register writers are looked at, the frame says it of the rest. -/
theorem registersChangeOnlyAsNamed : Obligations.RegistersChangeOnlyAsNamed := by
  intro i s t z h hz
  cases i with
  | ldImm | addImm | ldReg | orReg | andReg | xorReg | addReg | sub | shr | subn | shl | rnd | ldVxDt =>
    obtain rfl := Host.Outcome.next.inj h
    simp_all [mayWriteReg]
  | ldVxK x =>
    obtain ⟨-, rfl⟩ | ⟨k, -, rfl⟩ := exec_ldVxK_eq_next.1 h
    · rfl
    · simp_all [mayWriteReg]
  | drw =>
    obtain ⟨-, rfl⟩ := checkRange_next_eq_next.1 h
    simp_all [mayWriteReg]
  | ldRegs x =>
    obtain ⟨-, rfl⟩ := checkRange_next_eq_next.1 h
    exact (getElem_regsLoaded x s.base s z).trans (if_neg (of_decide_eq_false hz))
  | _ => exact sameAt_of_get_eq (c := .v) (exec_get h (by simp [mayWrite])) z

/-! ### Memory -/

/-- The range check passes for an access of no bytes, and for one that ends inside memory (R52). -/
theorem not_outOfRange_iff {a len : Nat} : ¬ OutOfRange a len ↔ len = 0 ∨ a + len ≤ Config.memSize := by
  simp only [OutOfRange, Config.memSize]
  omega

/-- A completed instruction leaves memory as one run of byte writes from `I` on, of as many bytes as it stores, all in
range; for an instruction that stores nothing the run is empty (R52, R55, R143, R144). -/
theorem exec_mem {i : Instr} {s t : State} (h : exec i s = .next t) :
    ∃ bs : List Byte, bs.length = storeLength i ∧ ¬ OutOfRange s.base (storeLength i) ∧
      t.mem = s.mem.writeBytes s.base bs := by
  cases i with
  | ldB x =>
    obtain ⟨hr, rfl⟩ := checkRange_next_eq_next.1 h
    exact ⟨_, length_decimalDigits _, hr, rfl⟩
  | stRegs x =>
    obtain ⟨hr, rfl⟩ := checkRange_next_eq_next.1 h
    exact ⟨_, length_regsThrough x s, hr, rfl⟩
  | _ => exact ⟨[], rfl, by simp [OutOfRange, storeLength], exec_get (c := .mem) h (by simp [mayWrite])⟩

/-- Settles O55: an address outside the run of writes reads as before. -/
theorem memoryChangesOnlyWhereStored : Obligations.MemoryChangesOnlyWhereStored := by
  intro i s t a h ha
  obtain ⟨bs, hlen, -, hmem⟩ := exec_mem h
  simp only [State.byteAt, hmem]
  exact Memory.writeBytes_outside _ _ _ _ (by rwa [hlen])

/-! ### `pc` -/

theorem target_eq_ofNat (nnn : Addr12) : target nnn = BitVec.ofNat 16 nnn.toNat := by
  apply BitVec.eq_of_toNat_eq
  simp only [target_toNat, BitVec.toNat_ofNat]
  omega

theorem target_add_zext16 (nnn : Addr12) (b : Byte) :
    target nnn + zext16 b = BitVec.ofNat 16 (nnn.toNat + b.toNat) := by
  apply BitVec.eq_of_toNat_eq
  simp

/-- A completed instruction leaves in `pc` what the advance table gives (R26). -/
theorem exec_pc {i : Instr} {s t : State} (h : exec i s = .next t) : newPc i s = some t.pc := by
  cases i with
  | ret =>
    obtain ⟨hsp, rfl⟩ := exec_ret_eq_next.1 h
    exact Vector.getElem?_eq_getElem _
  | call nnn =>
    obtain ⟨-, rfl⟩ := exec_call_eq_next.1 h
    exact congrArg some (target_eq_ofNat nnn).symm
  | jp nnn =>
    obtain rfl := Host.Outcome.next.inj h
    exact congrArg some (target_eq_ofNat nnn).symm
  | jpV0 nnn =>
    obtain rfl := Host.Outcome.next.inj h
    exact congrArg some (target_add_zext16 nnn (s.reg V0)).symm
  | seImm | sneImm | seReg | sneReg | skp | sknp =>
    obtain rfl := Host.Outcome.next.inj h
    simp [newPc]
  | ldVxK x =>
    obtain ⟨hnone, rfl⟩ | ⟨k, hsome, rfl⟩ := exec_ldVxK_eq_next.1 h
    · simp [newPc, State.pressed_iff, State.firstPressed_eq_none.1 hnone]
    · have hk : ∃ k : Reg, s.pressed k = true := ⟨k, State.pressed_iff.2 (State.firstPressed_eq_some.1 hsome).1⟩
      simp [newPc, hk]
  | drw | ldB | stRegs | ldRegs =>
    obtain ⟨-, rfl⟩ := checkRange_next_eq_next.1 h
    rfl
  | _ =>
    obtain rfl := Host.Outcome.next.inj h
    rfl

/-- A STEP that reports a fault leaves the state as it was (R173). -/
theorem perform_step_fault {s : State} {f : Fault} (h : (perform .step s).1 = .fault f) : (perform .step s).2 = s := by
  simp only [perform, stepReply] at h ⊢
  cases hs : step s with
  | next t =>
    simp only [hs] at h
    split at h <;> cases h
  | fault g => rfl
  | refused r => rfl

/-- Settles O56: the table row by row, and that a fault discards everything. -/
theorem pcAdvancesAsTabulated : Obligations.PcAdvancesAsTabulated :=
  ⟨fun _ _ _ => exec_pc, fun _ _ h => congrArg State.pc (perform_step_fault h)⟩

/-! ### `dirty` and `ST` are not read -/

/-- An outcome with its next state, if there is one, changed by `g`. -/
def mapNext (g : State → State) : Result → Result
  | .next t => .next (g t)
  | .fault f => .fault f
  | .refused r => .refused r

/-- The change passes under a range check. -/
theorem checkRange_eq_mapNext {g : State → State} {a len : Nat} {go go' : Result} (h : go' = mapNext g go) :
    checkRange a len go' = mapNext g (checkRange a len go) := by
  unfold checkRange
  split
  · rfl
  · exact h

/-- The state with other contents in `dirty` and `ST`. -/
def State.withDirtySt (d : Bool) (b : Byte) (s : State) : State := (s.setDirty d).setSt b

theorem State.pop_withDirtySt (d : Bool) (b : Byte) (s : State) :
    (s.withDirtySt d b).pop = s.pop.map (Prod.map id (State.withDirtySt d b)) := by
  cases hp : s.pop with
  | none => exact State.pop_eq_none.2 (State.pop_eq_none (s := s).1 hp)
  | some p =>
    obtain ⟨hsp, hw, hu⟩ := State.pop_eq_some.1 hp
    exact State.pop_eq_some.2 ⟨hsp, hw, congrArg (State.withDirtySt d b) hu⟩

theorem State.push_withDirtySt (d : Bool) (b : Byte) (s : State) (w : Word) :
    (s.withDirtySt d b).push w = (s.push w).map (State.withDirtySt d b) := by
  cases hp : s.push w with
  | none => exact State.push_eq_none.2 (State.push_eq_none (s := s).1 hp)
  | some u =>
    obtain ⟨hsp, hu⟩ := State.push_eq_some.1 hp
    exact State.push_eq_some.2 ⟨hsp, congrArg (State.withDirtySt d b) hu⟩

/-- An instruction started with other contents of `dirty` and `ST` ends as it would have, but for the contents of these
two: 00E0 and Dxyn set `dirty`, Fx18 sets `ST`, every other instruction hands both on (R30, R32). -/
theorem exec_withDirtySt (i : Instr) (s : State) (d : Bool) (b : Byte) :
    ∃ d' b', exec i (s.withDirtySt d b) = mapNext (State.withDirtySt d' b') (exec i s) := by
  cases i with
  | cls => exact ⟨true, b, rfl⟩
  | ldStVx x => exact ⟨d, s.reg x, rfl⟩
  | drw => exact ⟨true, b, checkRange_eq_mapNext rfl⟩
  | ldB | stRegs | ldRegs => exact ⟨d, b, checkRange_eq_mapNext rfl⟩
  | ret =>
    refine ⟨d, b, ?_⟩
    unfold exec execRet
    rw [State.pop_withDirtySt]
    cases s.pop <;> rfl
  | call nnn =>
    refine ⟨d, b, ?_⟩
    have hpc : (s.withDirtySt d b).pcNext = s.pcNext := rfl
    unfold exec execCall
    rw [hpc, State.push_withDirtySt]
    cases s.push s.pcNext <;> rfl
  | ldVxK x =>
    refine ⟨d, b, ?_⟩
    have hk : (s.withDirtySt d b).firstPressed = s.firstPressed := rfl
    unfold exec execLdVxK
    rw [hk]
    cases s.firstPressed <;> rfl
  | _ => exact ⟨d, b, rfl⟩

/-- Settles O57, from the simulation. -/
theorem noInstructionReadsDirtyOrSoundTimer : Obligations.NoInstructionReadsDirtyOrSoundTimer := by
  intro i s d b
  obtain ⟨d', b', hsim⟩ := exec_withDirtySt i s d b
  change exec i ((s.setDirty d).setSt b) = _ at hsim
  rw [hsim]
  refine ⟨fun f => ?_, fun t h => ⟨t.withDirtySt d' b', by rw [h, mapNext], fun c hc => sameAt_of_get_eq ?_⟩⟩
  · cases exec i s <;> simp [mapNext]
  · simp_all [State.withDirtySt]

/-! ### RESET -/

/-- The font that unlisted addresses read as and the glyph numbers agree at each of the 80 places (R202). -/
theorem unlisted_font : ∀ (d : Fin 16) (r : Fin 5),
    (Memory.unlisted (5 * d.val + r.val)).toNat = fontGlyphs.getD d.val 0 / 256 ^ (4 - r.val) % 256 := by
  decide

/-- Above the font an unlisted address reads as 0 (R34). -/
theorem unlisted_above_font {a : Nat} (h : 80 ≤ a) : Memory.unlisted a = 0#8 :=
  List.getD_eq_default _ _ h

/-- Settles O50, component by component. -/
theorem resetLeavesTheStatedValues : Obligations.ResetLeavesTheStatedValues := by
  intro s
  have hbyte (k : Fin 16) : (Vector.replicate 16 0#8)[k] = 0#8 := by simp
  have hword (k : Fin 16) : (Vector.replicate 16 0#16)[k] = 0#16 := by simp
  exact ⟨s.resetAll, rfl, unlisted_font, fun a ha => unlisted_above_font ha, hbyte, rfl, rfl, hword, rfl, rfl, rfl,
    cellOf_clearScreen, rfl, hbyte, rfl⟩

/-! ### The invariant -/

/-- Settles O58: no byte is listed and no return address is held. -/
theorem resetMeetsTheInvariant : Obligations.ResetMeetsTheInvariant :=
  ⟨Memory.wf_nil, by decide, fun _ h => absurd h (Nat.not_lt_zero _)⟩

/-- A step completes exactly when the fetch is in range, the word is an instruction, and that instruction completes
(R172). -/
theorem step_eq_next {s t : State} : step s = .next t ↔
    s.pc.toNat ≤ 4094 ∧ ∃ i, decode (s.wordAt s.pc.toNat) = some i ∧ exec i s = .next t := by
  unfold step
  cases hf : fetch s with
  | error f =>
    have hpc := (fetch_eq_error.1 hf).1
    exact iff_of_false nofun fun ⟨h, _⟩ => by omega
  | ok w =>
    obtain ⟨hpc, rfl⟩ := fetch_eq_ok.1 hf
    cases hd : decode (s.wordAt s.pc.toNat) <;> simp [hd, raise, hpc]

section
variable {i : Instr} {s t : State}

theorem exec_memWf (hs : s.Inv) (h : exec i s = .next t) : t.mem.wf := by
  obtain ⟨bs, hlen, hrange, hmem⟩ := exec_mem h
  rw [hmem]
  rcases not_outOfRange_iff.1 hrange with hzero | hfits
  · rw [List.eq_nil_of_length_eq_zero (hlen.trans hzero)]
    exact hs.memWf
  · exact Memory.wf_writeBytes bs (hlen ▸ hfits) hs.memWf

/-- The largest `pc`: a jump reaches 0xFFF + 0xFF, a return 0x1000, an advance 4094 + 4 (R27). -/
theorem exec_pcBound (hs : s.Inv) (hpc : s.pc.toNat ≤ 4094) (h : exec i s = .next t) : t.pc.toNat ≤ 0x10FE := by
  have hnew := exec_pc h
  cases i with
  | ret =>
    obtain ⟨hsp, rfl⟩ := exec_ret_eq_next.1 h
    have := hs.slotBound ⟨s.sp.val - 1, by omega⟩ (Nat.sub_one_lt hsp.ne')
    simp only [State.setPc_pc]
    omega
  | seImm | sneImm | seReg | sneReg | skp | sknp | ldVxK =>
    rw [← Option.some.inj hnew]
    split <;> bv_omega
  | _ =>
    rw [← Option.some.inj hnew]
    bv_omega

/-- Only a call and a return move the stack: a call holds `pc + 2`, at most 0x1000, above the addresses held before; a
return holds one address fewer (R28, R100, R102). -/
theorem exec_slotBound (hs : s.Inv) (hpc : s.pc.toNat ≤ 4094) (h : exec i s = .next t) (k : Fin 16)
    (hk : k.val < t.sp.val) : (t.slot k).toNat ≤ 0x1000 := by
  cases i with
  | ret =>
    obtain ⟨hsp, rfl⟩ := exec_ret_eq_next.1 h
    exact hs.slotBound k (by simp at hk; omega)
  | call nnn =>
    obtain ⟨hsp, rfl⟩ := exec_call_eq_next.1 h
    simp only [State.setPc_slot, State.setSp_slot, State.setSlot_slot, State.pcNext_eq, State.setPc_sp,
      State.setSp_sp] at hk ⊢
    split
    · bv_omega
    · rename_i hne
      exact hs.slotBound k (by simp [Fin.ext_iff] at hne; omega)
  | _ =>
    have hsp : t.sp = s.sp := exec_get (c := .sp) h (by simp [mayWrite])
    have hslot := sameAt_of_get_eq (c := .stack) (exec_get h (by simp [mayWrite])) k
    rw [hslot]
    exact hs.slotBound k (hsp ▸ hk)

end

/-- Settles O59: the three clauses, each kept by every instruction that the fetch reaches. -/
theorem everyStepKeepsTheInvariant : Obligations.EveryStepKeepsTheInvariant := by
  intro s t hs h
  obtain ⟨hpc, i, -, h⟩ := step_eq_next.1 h
  exact ⟨exec_memWf hs h, exec_pcBound hs hpc h, exec_slotBound hs hpc h⟩

/-- An outcome leaves the present state or its next one, so the invariant is kept if the next one meets it (R173). -/
theorem stateAfter_inv {s : State} {r : Result} (hs : s.Inv) (h : ∀ t, r = .next t → t.Inv) : (stateAfter s r).Inv := by
  cases r with
  | next t => exact h t rfl
  | fault f => exact hs
  | refused r => exact hs

theorem loadProgram_inv {bytes : List Byte} {s t : State} (hs : s.Inv) (h : loadProgram bytes s = .next t) : t.Inv := by
  unfold loadProgram raise at h
  split at h
  · cases h
  · rename_i hlen
    obtain rfl := Host.Outcome.next.inj h
    have hfits : Config.progBase + bytes.length ≤ Config.memSize := by
      simp only [Config.progBase, Config.memSize, Config.maxImage] at hlen ⊢
      omega
    exact ⟨Memory.wf_writeBytes bytes hfits hs.memWf, hs.pcBound, hs.slotBound⟩

/-- Every transaction keeps the invariant; TICK, KEYS and FRAME_ACK write no component that it speaks of. -/
theorem perform_inv (a : Transaction) {s : State} (hs : s.Inv) : (perform a s).2.Inv := by
  cases a with
  | reset => exact ⟨resetMeetsTheInvariant.memWf, resetMeetsTheInvariant.pcBound, resetMeetsTheInvariant.slotBound⟩
  | load bytes => exact stateAfter_inv hs fun _ => loadProgram_inv hs
  | step => exact stateAfter_inv hs fun _ => everyStepKeepsTheInvariant _ _ hs
  | tick | keys | frameAck => exact ⟨hs.memWf, hs.pcBound, hs.slotBound⟩

/-- Settles O60, by induction on the list of transactions. -/
theorem everyRunKeepsTheInvariant : Obligations.EveryRunKeepsTheInvariant := by
  intro ts
  induction ts with
  | nil => exact fun _ hs => hs
  | cons a ts ih => exact fun _ hs => ih _ (perform_inv a hs)

end Sys2Proof.Machine

/-! SUPPORT. What Fx55 leaves in memory, register by register, and that the fetch after it sees the bytes stored: a
store and the fetch read and write the one memory (20_memory.md R62). -/

namespace Sys2Proof.Machine

/-- Fx55 completes where the last byte it stores is inside memory (R52, R144). -/
theorem exec_stRegs_inside {x : Reg} {s : State} (h : s.i.toNat + x.val ≤ 4095) :
    exec (.stRegs x) s = .next (s.setMem (s.mem.writeBytes s.base (regsThrough x s))).advance :=
  checkRange_inside (not_outOfRange_iff.2 (.inr (by simp only [State.base, Config.memSize]; omega))) _

/-- After a completed Fx55 the cell at `I + k` holds `V[k]`, for each register stored (R144). -/
theorem exec_stRegs_byteAt {x k : Reg} {s t : State} (h : exec (.stRegs x) s = .next t) (hk : k.val ≤ x.val) :
    t.byteAt (s.i.toNat + k.val) = s.reg k := by
  obtain ⟨-, rfl⟩ := checkRange_next_eq_next.1 h
  have hlen : k.val < (regsThrough x s).length := by rw [length_regsThrough]; omega
  exact (Memory.writeBytes_inside s.mem s.base _ k.val hlen).trans (getElem_regsThrough x s k.val hlen)

/-- Settles O39: the next `pc` and the one after it are the addresses of two bytes just stored. -/
theorem storeIsSeenByNextFetch : Obligations.StoreIsSeenByNextFetch := by
  intro x k l s hin hl hlx hpc
  have hexec := exec_stRegs_inside hin
  refine ⟨_, hexec, fetch_eq_ok.2 ?_⟩
  have hhigh := exec_stRegs_byteAt hexec (show k.val ≤ x.val by omega)
  have hlow := exec_stRegs_byteAt hexec hlx
  rw [hl, ← Nat.add_assoc, ← hpc] at hlow
  rw [← hpc] at hhigh
  exact ⟨show (s.pc + 2#16).toNat ≤ 4094 by omega, congrArg₂ bytesWord hhigh hlow⟩

end Sys2Proof.Machine

/-! SUPPORT. The decoder and the encoder are inverse to each other, family by family, and both follow the opcode map:
the rules of 30_encoding.md, sections 2 to 4. -/

namespace Sys2Proof

/-! ### Decoding what the encoder gives -/

/-- The two bytes of a word, put together, are the word (R54). -/
theorem bytesWord_highByte_lowByte (w : Word) : bytesWord (highByte w) (lowByte w) = w :=
  BitVec.extractLsb'_append_extractLsb'

theorem decodeBytes_wordBytes {w : Word} {i : Instr} (h : decode w = some i) (rest : List Byte) :
    decodeBytes (wordBytes w ++ rest) = .ok (i, rest) := by
  simp [wordBytes, decodeBytes, bytesWord_highByte_lowByte, h]

/-- The decoder reads every field back out of the format that the encoder put it in (R83, R89). -/
theorem decode_encode (i : Instr) : decode (encode i) = some i := by
  cases i with
  | cls | ret => rfl
  | jp | call | ldI | jpV0 | seImm | sneImm | ldImm | addImm | rnd | drw => simp [encode, decode]
  | seReg | sneReg => simp [encode, decode, decodeLowZero]
  | ldReg | orReg | andReg | xorReg | addReg | sub | shr | subn | shl => simp [encode, decode, decodeAlu]
  | skp | sknp => simp [encode, decode, decodeKeySkip]
  | ldVxDt | ldVxK | ldDtVx | ldStVx | addI | ldF | ldB | stRegs | ldRegs => simp [encode, decode, decodeMisc]

/-- Settles O1, from the decoder on the encoder's formats. -/
theorem decodeInvertsEncode : Obligations.DecodeInvertsEncode :=
  fun i => ⟨decode_encode i, decodeBytes_wordBytes (decode_encode i)⟩

/-! ### Encoding what the decoder gives -/

/-- A family is the numeral that the dispatch told it by (R83). -/
theorem fieldFamily_eq_ofNat {w : Word} {f : Nat} (h : (fieldFamily w).toNat = f) : fieldFamily w = BitVec.ofNat 4 f :=
  (BitVec.toNat_eq_nat.1 h).2

section
variable {w : Word} {x y : Reg} {i : Instr}

theorem encode_of_decodeFixed (h : decodeFixed w = some i) : encode i = w := by
  unfold decodeFixed at h
  split_ifs at h with hcls hret
  · cases h; exact hcls.symm
  · cases h; exact hret.symm

theorem encode_of_decodeAlu {n : Fin 16} (h : decodeAlu x y n.val = some i) : encode i = wordXYN 0x8#4 x y n := by
  fin_cases n <;> cases h <;> rfl

theorem encode_of_decodeKeySkip {nn : Byte} (h : decodeKeySkip x nn.toNat = some i) :
    encode i = wordXNN 0xE#4 x nn := by
  unfold decodeKeySkip at h
  split at h <;> rename_i hnn <;> cases h
  all_goals rw [(BitVec.toNat_eq_nat.1 hnn).2, encode]

theorem encode_of_decodeMisc {nn : Byte} (h : decodeMisc x nn.toNat = some i) :
    encode i = wordXNN 0xF#4 x nn := by
  unfold decodeMisc at h
  split at h <;> rename_i hnn <;> cases h
  all_goals rw [(BitVec.toNat_eq_nat.1 hnn).2, encode]

theorem eq_of_decodeLowZero {j : Instr} (h : decodeLowZero w j = some i) : fieldN w = 0 ∧ j = i := by
  unfold decodeLowZero at h
  split_ifs at h with hn
  exact ⟨hn, Option.some.inj h⟩

end

/-- The operands that the decoder reads, put into the format of the word's family again, are the word (R92). The case
`h_1` of the dispatch is family 0x0, and so on up to `h_16` for family 0xF; `h_17` is the default branch. -/
theorem encode_of_decode {w : Word} {i : Instr} (h : decode w = some i) : encode i = w := by
  have hNNN := wordNNN_fields w
  have hXNN := wordXNN_fields w
  have hXYN := wordXYN_fields w
  unfold decode at h
  split at h
  case h_17 => cases h
  all_goals
    rename_i hf
    rw [fieldFamily_eq_ofNat hf] at hNNN hXNN hXYN
  case h_1 => exact encode_of_decodeFixed h
  case h_2 | h_3 | h_11 | h_12 => cases h; exact hNNN
  case h_4 | h_5 | h_7 | h_8 | h_13 => cases h; exact hXNN
  case h_14 => cases h; exact hXYN
  case h_6 | h_10 =>
    obtain ⟨hn, rfl⟩ := eq_of_decodeLowZero h
    rwa [hn] at hXYN
  case h_9 => exact (encode_of_decodeAlu h).trans hXYN
  case h_15 => exact (encode_of_decodeKeySkip h).trans hXNN
  case h_16 => exact (encode_of_decodeMisc h).trans hXNN

/-- Settles O2: the lemma is the statement. -/
theorem encodeInvertsDecode : Obligations.EncodeInvertsDecode :=
  fun _ _ => encode_of_decode

/-! ### The opcode map -/

open Laws.EncodesRow in
/-- The word of every instruction matches the instruction's row, a row of the map (R89). -/
theorem encodesRow : ∀ i : Instr, Statement i
  | .cls => cls | .ret => ret
  | .jp nnn => jp nnn | .call nnn => call nnn | .ldI nnn => ldI nnn | .jpV0 nnn => jpV0 nnn
  | .seImm x nn => seImm x nn | .sneImm x nn => sneImm x nn | .ldImm x nn => ldImm x nn
  | .addImm x nn => addImm x nn | .rnd x nn => rnd x nn
  | .drw x y n => drw x y n
  | .seReg x y => seReg x y | .sneReg x y => sneReg x y
  | .ldReg x y => ldReg x y | .orReg x y => orReg x y | .andReg x y => andReg x y | .xorReg x y => xorReg x y
  | .addReg x y => addReg x y | .sub x y => sub x y | .shr x y => shr x y | .subn x y => subn x y
  | .shl x y => shl x y
  | .skp x => skp x | .sknp x => sknp x
  | .ldVxDt x => ldVxDt x | .ldVxK x => ldVxK x | .ldDtVx x => ldDtVx x | .ldStVx x => ldStVx x
  | .addI x => addI x | .ldF x => ldF x | .ldB x => ldB x | .stRegs x => stRegs x | .ldRegs x => ldRegs x

section
variable {r : OpRow} {w : Word}

theorem OpRow.accepts_iff : r.accepts w = true ↔ w &&& r.mask = r.bits :=
  beq_iff_eq

theorem eq_bits_of_accepts (hm : r.mask = BitVec.allOnes 16) (h : r.accepts w = true) : w = r.bits := by
  rw [← OpRow.accepts_iff.1 h, hm, BitVec.and_allOnes]

theorem fieldFamily_of_accepts (hm : fieldFamily r.mask = BitVec.allOnes 4) (h : r.accepts w = true) :
    fieldFamily w = fieldFamily r.bits := by
  have hand : fieldFamily (w &&& r.mask) = fieldFamily w &&& fieldFamily r.mask := BitVec.extractLsb'_and
  rw [← OpRow.accepts_iff.1 h, hand, hm, BitVec.and_allOnes]

theorem fieldNN_of_accepts (hm : fieldNN r.mask = BitVec.allOnes 8) (h : r.accepts w = true) :
    fieldNN w = fieldNN r.bits := by
  have hand : fieldNN (w &&& r.mask) = fieldNN w &&& fieldNN r.mask := BitVec.extractLsb'_and
  rw [← OpRow.accepts_iff.1 h, hand, hm, BitVec.and_allOnes]

theorem fieldN_of_accepts (hm : nib (fieldN r.mask) = BitVec.allOnes 4) (h : r.accepts w = true) :
    fieldN w = fieldN r.bits := by
  have hand : nib (fieldN (w &&& r.mask)) = nib (fieldN w) &&& nib (fieldN r.mask) := BitVec.extractLsb'_and
  rw [OpRow.accepts_iff.1 h, hm, BitVec.and_allOnes] at hand
  exact (congrArg unnib hand).symm

end

/-- A word that the row of an instruction accepts decodes to an instruction of that row: the digits under the mask are
those that the decoder looks at (R83, R89). -/
theorem decode_of_row_accepts {i : Instr} {w : Word} (h : i.row.accepts w = true) :
    ∃ j, decode w = some j ∧ j.row = i.row := by
  cases i with
  | cls | ret =>
    obtain rfl := eq_bits_of_accepts rfl h
    exact ⟨_, rfl, rfl⟩
  | jp | call | ldI | jpV0 | seImm | sneImm | ldImm | addImm | rnd | drw =>
    simp only [Instr.row] at h
    rw [decode, fieldFamily_of_accepts rfl h]
    exact ⟨_, rfl, rfl⟩
  | seReg | sneReg =>
    simp only [Instr.row] at h
    rw [decode, fieldFamily_of_accepts rfl h]
    exact ⟨_, if_pos (fieldN_of_accepts rfl h), rfl⟩
  | ldReg | orReg | andReg | xorReg | addReg | sub | shr | subn | shl =>
    simp only [Instr.row] at h
    rw [decode, fieldFamily_of_accepts rfl h, fieldN_of_accepts rfl h]
    exact ⟨_, rfl, rfl⟩
  | skp | sknp | ldVxDt | ldVxK | ldDtVx | ldStVx | addI | ldF | ldB | stRegs | ldRegs =>
    simp only [Instr.row] at h
    rw [decode, fieldFamily_of_accepts rfl h, fieldNN_of_accepts rfl h]
    exact ⟨_, rfl, rfl⟩

/-- The match bits of a row are themselves an instruction of that row. -/
theorem decode_bits_of_mem_opcodeMap : ∀ r ∈ opcodeMap, (decode r.bits).map Instr.row = some r := by
  decide

theorem exists_row_eq {r : OpRow} (hr : r ∈ opcodeMap) : ∃ i : Instr, i.row = r := by
  obtain ⟨i, -, hi⟩ := Option.map_eq_some_iff.1 (decode_bits_of_mem_opcodeMap r hr)
  exact ⟨i, hi⟩

/-- Settles O3: a word that decodes is the encoding of its instruction, whose row accepts it. -/
theorem decoderFollowsOpcodeMap : Obligations.DecoderFollowsOpcodeMap := by
  intro w r hr
  constructor
  · intro h
    obtain ⟨i, rfl⟩ := exists_row_eq hr
    exact decode_of_row_accepts h
  · rintro ⟨i, hi, rfl⟩
    rw [← encode_of_decode hi]
    exact (encodesRow i).2

/-- Settles O4: two rows that accept one word are the row of the one instruction it decodes to. -/
theorem opcodeMapRowsAreDisjoint : Obligations.OpcodeMapRowsAreDisjoint := by
  refine ⟨rfl, fun w r q hr hq hwr hwq => ?_⟩
  obtain ⟨i, hi, rfl⟩ := (decoderFollowsOpcodeMap w r hr).1 hwr
  obtain ⟨j, hj, rfl⟩ := (decoderFollowsOpcodeMap w q hq).1 hwq
  rw [Option.some.inj (hi.symm.trans hj)]

/-! ### Illegal words -/

theorem fieldFamily_toNat (w : Word) : (fieldFamily w).toNat = w.toNat / 4096 := by
  simp only [fieldFamily, BitVec.extractLsb'_toNat, Nat.shiftRight_eq_div_pow]
  omega

theorem fieldN_val (w : Word) : (fieldN w).val = w.toNat % 16 :=
  BitVec.extractLsb'_toNat 0 4 w

theorem fieldNN_toNat (w : Word) : (fieldNN w).toNat = w.toNat % 256 :=
  BitVec.extractLsb'_toNat 0 8 w

theorem decodeFixed_eq_none {w : Word} : decodeFixed w = none ↔ w.toNat ≠ 0x00E0 ∧ w.toNat ≠ 0x00EE := by
  unfold decodeFixed
  split_ifs <;> simp_all [← BitVec.toNat_inj]

theorem decodeLowZero_eq_none {w : Word} {i : Instr} : decodeLowZero w i = none ↔ w.toNat % 16 ≠ 0 := by
  simp [decodeLowZero, Fin.ext_iff, fieldN_val]

section
variable {x y : Reg} {n : Nat}

theorem decodeAlu_eq_none (h : n < 16) : decodeAlu x y n = none ↔ 8 ≤ n ∧ n ≤ 13 ∨ n = 15 := by
  interval_cases n <;> simp [decodeAlu]

theorem decodeKeySkip_eq_none : decodeKeySkip x n = none ↔ n ∉ [0x9E, 0xA1] := by
  unfold decodeKeySkip
  split <;> simp_all

theorem decodeMisc_eq_none :
    decodeMisc x n = none ↔ n ∉ [0x07, 0x0A, 0x15, 0x18, 0x1E, 0x29, 0x33, 0x55, 0x65] := by
  unfold decodeMisc
  split <;> simp_all

end

/-- Settles O5, family by family: `h_1` of the dispatch is family 0x0, `h_16` family 0xF, and no word reaches the
default branch `h_17`. -/
theorem illegalWordsAreThoseListed : Obligations.IllegalWordsAreThoseListed := by
  intro w
  unfold decode
  rw [fieldFamily_toNat, fieldN_val, fieldNN_toNat]
  split <;> rename_i hf
  case h_1 => simp [hf, decodeFixed_eq_none]
  case h_6 | h_10 => simp [hf, decodeLowZero_eq_none]
  case h_9 => simp [hf, decodeAlu_eq_none (Nat.mod_lt w.toNat (by decide : 16 > 0))]
  case h_15 => simp [hf, decodeKeySkip_eq_none]
  case h_16 => simp [hf, decodeMisc_eq_none]
  case h_17 =>
    simp only [imp_false] at *
    omega
  all_goals simp [hf]

/-! ### Families 0xE and 0xF -/

theorem decodeKeySkip_toNat (x : Reg) (nn : Byte) : decodeKeySkip x nn.toNat =
    if nn = 0x9E#8 then some (.skp x) else if nn = 0xA1#8 then some (.sknp x) else none := by
  unfold decodeKeySkip
  split <;> simp_all [← BitVec.toNat_inj]

theorem decodeMisc_toNat (x : Reg) (nn : Byte) : decodeMisc x nn.toNat =
    if nn = 0x07#8 then some (.ldVxDt x) else if nn = 0x0A#8 then some (.ldVxK x)
    else if nn = 0x15#8 then some (.ldDtVx x) else if nn = 0x18#8 then some (.ldStVx x)
    else if nn = 0x1E#8 then some (.addI x) else if nn = 0x29#8 then some (.ldF x)
    else if nn = 0x33#8 then some (.ldB x) else if nn = 0x55#8 then some (.stRegs x)
    else if nn = 0x65#8 then some (.ldRegs x) else none := by
  unfold decodeMisc
  split <;> simp_all [← BitVec.toNat_inj]

/-- Settles O6: the fields of the format are read back, and the second level of the dispatch is the list of codes. -/
theorem familiesEAndFSelectByLowByte : Obligations.FamiliesEAndFSelectByLowByte := by
  intro x nn
  rw [← decodeKeySkip_toNat, ← decodeMisc_toNat]
  simp [decode]

/-- Settles O7, by running the decoder on the words. -/
theorem exampleWordsDecode : Obligations.ExampleWordsDecode := by
  unfold Obligations.ExampleWordsDecode
  decide

end Sys2Proof

/-! SUPPORT. What a call and a return leave, at each height of the stack; the fetch fault that follows a jump to an
address above 4094; and the two runs that rest on these: a call with its return, and a jump to itself (40_flow.md). -/

namespace Sys2Proof.Machine

/-! ### The return and the call -/

theorem exec_ret_of_empty {s : State} (h : s.sp.val = 0) : exec .ret s = .fault .stackUnderflow := by
  simp only [exec, execRet, State.pop_eq_none.2 h, raise]

theorem exec_ret_of_held {s : State} {k : Fin 16} (h : s.sp.val = k.val + 1) :
    exec .ret s = .next ((s.setSp k.castSucc).setPc (s.slot k)) := by
  refine exec_ret_eq_next.2 ⟨by omega, ?_⟩
  simp only [h, Nat.add_sub_cancel]
  rfl

theorem exec_call_of_full {nnn : Addr12} {s : State} (h : s.sp.val = 16) :
    exec (.call nnn) s = .fault .stackOverflow := by
  simp only [exec, execCall, State.push_eq_none.2 h, raise]

theorem exec_call_of_room {nnn : Addr12} {s : State} {k : Fin 16} (h : s.sp.val = k.val) :
    exec (.call nnn) s = .next (((s.setSlot k s.pcNext).setSp k.succ).setPc (target nnn)) := by
  refine exec_call_eq_next.2 ⟨by omega, ?_⟩
  simp only [h]
  rfl

/-! ### The fetch after a jump -/

/-- Whichever instruction set `pc` above 4094, the next step faults at its fetch (R54, D11). -/
theorem step_of_pc_gt {s : State} (h : s.pc.toNat > 4094) :
    step s = .fault (.memoryOutOfBounds (max s.pc.toNat 4096)) := by
  rw [step, fetch_eq_error.2 ⟨h, rfl⟩]
  rfl

/-! ### The four instructions -/

/-- Settles O16, at each height of the stack. -/
theorem returnPopsTheStack : Obligations.ReturnPopsTheStack := by
  refine ⟨decode_encode .ret, fun s => ⟨exec_ret_of_empty, fun k hk => ?_⟩⟩
  have hexec := exec_ret_of_held hk
  exact ⟨_, hexec, rfl, rfl, componentsChangeOnlyByTheirWriters _ _ _ hexec, fun hpc => step_of_pc_gt hpc⟩

/-- Settles O17: the fault at 0xFFF is the next step's own. -/
theorem jumpSetsPc : Obligations.JumpSetsPc := by
  refine fun nnn => ⟨decode_encode (.jp nnn), fun s =>
    ⟨s.setPc (target nnn), rfl, target_toNat nnn, ?_, fun hlast => ?_⟩⟩
  · exact componentsChangeOnlyByTheirWriters (.jp nnn) _ _ rfl
  · have hpc : (s.setPc (target nnn)).pc.toNat = 4095 := (target_toNat nnn).trans hlast
    rw [step_of_pc_gt (by omega), hpc]
    rfl

/-- Settles O18, at each height of the stack. -/
theorem callPushesAndJumps : Obligations.CallPushesAndJumps := by
  refine fun nnn => ⟨decode_encode (.call nnn), fun s => ⟨exec_call_of_full, fun k hk => ?_⟩⟩
  have hexec := exec_call_of_room (nnn := nnn) hk
  refine ⟨_, hexec, ?_, fun j hj => ?_, rfl, target_toNat nnn, componentsChangeOnlyByTheirWriters _ _ _ hexec⟩
  · simp
  · simp [hj]

/-- Settles O19: the sum of a 12-bit and an 8-bit number is below 2 ^ 16. -/
theorem jumpWithOffsetIsNotMasked : Obligations.JumpWithOffsetIsNotMasked := by
  refine fun nnn => ⟨decode_encode (.jpV0 nnn), fun s => ⟨_, rfl, ?_, ?_⟩⟩
  · simp only [State.setPc_pc, target_add_zext16, BitVec.toNat_ofNat]
    exact Nat.mod_eq_of_lt (by omega)
  · exact componentsChangeOnlyByTheirWriters (.jpV0 nnn) _ _ rfl

/-! ### A call and its return -/

theorem SameAt.trans {c : Component} {s t u : State} (hst : SameAt c s t) (htu : SameAt c t u) : SameAt c s u := by
  cases c
  case mem | v | stack | fb | keys => exact fun a => (htu a).trans (hst a)
  all_goals exact Eq.trans htu hst

/-- Settles O20: the call keeps the word at its target, so the return is fetched there and pops the slot that the call
wrote; every component that neither of the two writes is kept by both, and the return takes `sp` back. -/
theorem returnAfterCallComesBack : Obligations.ReturnAfterCallComesBack := by
  intro s nnn k hpc hsp hnnn hcallWord hretWord
  obtain ⟨hdecodeCall, hcall⟩ := callPushesAndJumps nnn
  obtain ⟨t, hcall, htk, htj, htsp, htpc, htframe⟩ := (hcall s).2 k hsp
  obtain ⟨hdecodeRet, hret⟩ := returnPopsTheStack
  obtain ⟨u, hret, hupc, husp, huframe, -⟩ := (hret t).2 k htsp
  have htmem : SameAt .mem s t := htframe .mem (by decide)
  have htword : t.wordAt t.pc.toNat = 0x00EE#16 := by
    rw [htpc, ← hretWord]
    exact congrArg₂ bytesWord (htmem _) (htmem _)
  have hstepCall : step s = .next t := step_eq_next.2 ⟨hpc, _, hcallWord ▸ hdecodeCall, hcall⟩
  have hstepRet : step t = .next u := step_eq_next.2 ⟨htpc ▸ hnnn, _, htword ▸ hdecodeRet, hret⟩
  have huslot : SameAt .stack t u := huframe .stack (by decide)
  refine ⟨t, u, hstepCall, hstepRet, hupc.trans htk, (huslot k).trans htk, fun j hj => (huslot j).trans (htj j hj),
    fun c hc => ?_⟩
  by_cases hcsp : c = .sp
  · subst hcsp
    exact Fin.ext (husp.trans hsp.symm)
  · simp only [List.mem_cons, List.not_mem_nil, or_false, not_or] at hc
    exact (htframe c (by simp [hc, hcsp])).trans (huframe c (by simp [hc, hcsp]))

/-! ### A jump to itself -/

/-- A state that a step maps to itself is what any number of steps leave. -/
theorem run_of_step_eq_self {s : State} (h : step s = .next s) (n : Nat) : core.run n s = .next s := by
  induction n with
  | zero => rfl
  | succ n ih =>
    have hstep : core.step s = .next s := h
    simp only [Host.Core.run, hstep]
    exact ih

/-- Settles O21: the jump sets `pc` to the value it holds. -/
theorem jumpToItselfRunsForEver : Obligations.JumpToItselfRunsForEver := by
  intro n s nnn hpc hself hword
  have htarget : target nnn = s.pc := BitVec.eq_of_toNat_eq ((target_toNat nnn).trans hself)
  have hjump : exec (.jp nnn) s = .next s := congrArg (fun w => Host.Outcome.next (s.setPc w)) htarget
  exact run_of_step_eq_self (step_eq_next.2 ⟨hpc, .jp nnn, hword ▸ decode_encode (.jp nnn), hjump⟩) n

end Sys2Proof.Machine

/-! SUPPORT. The conditional skips: one rule for a completed skip whose condition holds where `p` does, one for the
complement, and the key that a register value selects (41_skip.md). -/

namespace Sys2Proof.Machine

/-! ### A completed skip -/

/-- A skip writes `pc` only (R110 to R116). -/
theorem State.skipIf_onlyChanges (s : State) (c : Bool) : OnlyChanges [.pc] s (s.skipIf c) :=
  fun _ hc => sameAt_of_get_eq (Component.get_setPc s (List.ne_of_not_mem_cons hc) _)

section
variable {p : Prop} [Decidable p] {c : Bool} {i : Instr} {s : State}

/-- An instruction that skips where `p` holds: 3xnn, 5xy0, ExA1. -/
theorem exec_skips_if (hexec : exec i s = .next (s.skipIf c)) (hc : c = true ↔ p) :
    ∃ t : State, exec i s = .next t ∧ OnlyChanges [.pc] s t ∧ t.pc = if p then s.pc + 4#16 else s.pc + 2#16 :=
  ⟨_, hexec, s.skipIf_onlyChanges c, by simp [hc]⟩

/-- An instruction that skips where `p` does not hold: 4xnn, 9xy0, Ex9E. -/
theorem exec_skips_unless (hexec : exec i s = .next (s.skipIf c)) (hc : c = true ↔ ¬ p) :
    ∃ t : State, exec i s = .next t ∧ OnlyChanges [.pc] s t ∧ t.pc = if p then s.pc + 2#16 else s.pc + 4#16 := by
  rw [← ite_not]
  exact exec_skips_if hexec hc

end

/-! ### The conditions -/

/-- Settles O22: the two conditions are complements of each other. -/
theorem skipOnImmediate : Obligations.SkipOnImmediate :=
  fun x nn => ⟨decode_encode (.seImm x nn), decode_encode (.sneImm x nn), fun _ =>
    ⟨exec_skips_if rfl beq_iff_eq, exec_skips_unless rfl bne_iff_ne⟩⟩

/-- Families 0x5 and 0x9 are one instruction each, at the low digit 0 (R88). -/
theorem decodeLowZero_wordXYN (f : BitVec 4) (x y : Reg) (n : Fin 16) (i : Instr) :
    decodeLowZero (wordXYN f x y n) i = if n = 0 then some i else none := by
  rw [decodeLowZero, fieldN_wordXYN]

/-- Settles O23: the second level of the dispatch is the test of the low digit. -/
theorem skipOnRegisters : Obligations.SkipOnRegisters := by
  refine fun x y => ⟨fun n => ?_, fun _ => ⟨exec_skips_if rfl beq_iff_eq, exec_skips_unless rfl bne_iff_ne⟩⟩
  rw [← decodeLowZero_wordXYN 0x5#4 x y, ← decodeLowZero_wordXYN 0x9#4 x y]
  simp [decode]

/-- The key that a register value selects is the value modulo 16 (R114, D17). -/
theorem keyOf_val (b : Byte) : (keyOf b).val = b.toNat % 16 :=
  BitVec.extractLsb'_toNat 0 4 b

/-- Settles O24: the key looked up is `k`, and its flag of zero is what "not pressed" says (R114, D18). -/
theorem skipOnKey : Obligations.SkipOnKey := by
  intro x k s hk
  obtain rfl : keyOf (s.reg x) = k := Fin.ext ((keyOf_val _).trans hk)
  have hup : (!s.pressed (keyOf (s.reg x))) = true ↔ s.key (keyOf (s.reg x)) = 0#8 := by simp [State.pressed]
  exact ⟨exec_skips_unless rfl State.pressed_iff, exec_skips_if rfl hup⟩

end Sys2Proof.Machine

/-! SUPPORT. The register load and ALU instructions: one rule for each of their two common ends, the flag values as
numbers, and from these what each instruction leaves (42_alu.md). -/

namespace Sys2Proof.Machine

/-! ### The two common ends -/

section
variable (x : Reg) (b f : Byte) (s : State)

/-- The common end of the instructions without a flag: the destination holds the result (R120 to R125, R131). -/
theorem finishReg_effect : ∃ t : State, finishReg x b s = .next t ∧ t.reg x = b ∧
    (∀ z : Reg, z ≠ x → t.reg z = s.reg z) ∧ t.pc = s.pc + 2#16 ∧ OnlyChanges [.pc, .v] s t := by
  refine ⟨_, rfl, by simp, fun z hz => by simp [hz], rfl, fun c hc => sameAt_of_get_eq ?_⟩
  simp_all

/-- `finishReg_effect` for a result given bit by bit. -/
theorem finishReg_bits {g : Nat → Bool} (hg : ∀ k, b.getLsbD k = g k) : ∃ t : State, finishReg x b s = .next t ∧
    (∀ k, (t.reg x).getLsbD k = g k) ∧ (∀ z : Reg, z ≠ x → t.reg z = s.reg z) ∧ t.pc = s.pc + 2#16 ∧
    OnlyChanges [.pc, .v] s t := by
  obtain ⟨t, hexec, rfl, hrest⟩ := finishReg_effect x b s
  exact ⟨t, hexec, hg, hrest⟩

/-- The common end of the flag writers: the flag is written last, so it is what VF holds also where x = F (R133). -/
theorem finishFlagged_effect {r q : Nat} (hr : b.toNat = r) (hq : f.toNat = q) :
    ∃ t : State, finishFlagged x b f s = .next t ∧ FlaggedEffect x r q s t := by
  refine ⟨_, rfl, by simp [hq], fun hx => by simp [hx, hr], fun z hz hz15 => by simp [hz, hz15], rfl,
    fun c hc => sameAt_of_get_eq ?_⟩
  simp_all

end

/-! ### The flag values -/

theorem flagByte_eq_zero_or_one (c : Bool) : flagByte c = 0#8 ∨ flagByte c = 1#8 := by
  cases c
  · exact .inl rfl
  · exact .inr rfl

theorem carryFlag_toNat (a b : Byte) : (carryFlag a b).toNat = if a.toNat + b.toNat > 255 then 1 else 0 := by
  simp [carryFlag]

/-- No borrow is needed exactly where the minuend is not the smaller one (R127, D10). -/
theorem notBorrowFlag_toNat (a b : Byte) : (notBorrowFlag a b).toNat = if a.toNat < b.toNat then 0 else 1 := by
  simp only [notBorrowFlag, flagByte_toNat, decide_eq_true_eq, ge_iff_le, ← Nat.not_lt, ite_not]

theorem bitOutRight_toNat (b : Byte) : (bitOutRight b).toNat = b.toNat % 2 := by
  simp only [bitOutRight, flagByte_toNat, BitVec.getLsbD, Nat.testBit_zero, decide_eq_true_eq]
  split <;> omega

theorem bitOutLeft_toNat (b : Byte) : (bitOutLeft b).toNat = b.toNat / 128 := by
  simp only [bitOutLeft, flagByte_toNat, BitVec.getLsbD, Nat.testBit_eq_decide_div_mod_eq, decide_eq_true_eq]
  split <;> omega

/-- The difference modulo 256 as the spec writes it, with 256 added where a borrow is needed (R127, R132). -/
theorem subByte_toNat_eq_ite (a b : Byte) :
    (subByte a b).toNat = if a.toNat < b.toNat then a.toNat + 256 - b.toNat else a.toNat - b.toNat := by
  rw [subByte_toNat]
  split <;> omega

/-! ### The flag writers leave a flag -/

/-- A completed flag writer leaves a flag value in VF, Dxyn included (R22, R133). -/
theorem exec_flag {i : Instr} {s t : State} (hi : writesFlag i = true) (h : exec i s = .next t) :
    ∃ c : Bool, t.reg VF = flagByte c := by
  cases i with
  | addReg | sub | shr | subn | shl =>
    obtain rfl := Host.Outcome.next.inj h
    exact ⟨_, State.setReg_reg _ VF _ VF⟩
  | drw =>
    obtain ⟨-, rfl⟩ := checkRange_next_eq_next.1 h
    exact ⟨_, State.setReg_reg _ VF _ VF⟩
  | _ => exact absurd hi Bool.false_ne_true

/-- Settles O54: what VF holds is a flag value. -/
theorem flagWritersLeaveZeroOrOne : Obligations.FlagWritersLeaveZeroOrOne := by
  intro i s t hi h
  obtain ⟨c, hc⟩ := exec_flag hi h
  exact hc ▸ flagByte_eq_zero_or_one c

/-! ### The instructions without a flag -/

/-- Settles O25, from the common end. -/
theorem loadImmediateSetsRegister : Obligations.LoadImmediateSetsRegister :=
  fun x nn => ⟨decode_encode (.ldImm x nn), finishReg_effect x nn⟩

/-- Settles O26, from the common end and the sum modulo 256. -/
theorem addImmediateWraps : Obligations.AddImmediateWraps := by
  refine fun x nn => ⟨decode_encode (.addImm x nn), fun s => ?_⟩
  obtain ⟨t, hexec, hx, hrest⟩ := finishReg_effect x (addByte (s.reg x) nn) s
  exact ⟨t, hexec, hx ▸ addByte_toNat _ _, hrest⟩

/-- Settles O27: the four results bit by bit. -/
theorem assignAndLogicWorkBitwise : Obligations.AssignAndLogicWorkBitwise :=
  fun x _ s => ⟨finishReg_bits x _ s fun _ => rfl, finishReg_bits x _ s fun _ => BitVec.getLsbD_or,
    finishReg_bits x _ s fun _ => BitVec.getLsbD_and, finishReg_bits x _ s fun _ => BitVec.getLsbD_xor⟩

/-- Settles O31: the common end from the state with the draw consumed, which differs from the one before in the count
of draws only. -/
theorem randomIsTheMaskedDraw : Obligations.RandomIsTheMaskedDraw := by
  refine fun x nn => ⟨decode_encode (.rnd x nn), fun s => ?_⟩
  obtain ⟨t, hexec, hx, hz, hpc, hframe⟩ := finishReg_effect x (s.rand &&& nn) s.consumeDraw
  refine ⟨t, hexec, fun b => ?_, fun hnn => ?_, hframe .draws (by decide), hz, hpc,
    componentsChangeOnlyByTheirWriters (.rnd x nn) s t hexec⟩
  · rw [hx]
    exact BitVec.getLsbD_and
  · rw [hx, hnn, BitVec.and_zero]

/-! ### The flag-writing ALU instructions -/

/-- Settles O28: the stored result and the carry, as numbers. -/
theorem addRegistersSetsCarry : Obligations.AddRegistersSetsCarry :=
  fun x y => ⟨decode_encode (.addReg x y), fun s =>
    finishFlagged_effect x _ _ s (addByte_toNat _ _) (carryFlag_toNat _ _)⟩

/-- Settles O29: SUBN is SUB with the operands exchanged. -/
theorem subtractSetsNotBorrow : Obligations.SubtractSetsNotBorrow :=
  fun x _ s =>
    ⟨finishFlagged_effect x _ _ s (subByte_toNat_eq_ite _ _) (notBorrowFlag_toNat _ _),
      finishFlagged_effect x _ _ s (subByte_toNat_eq_ite _ _) (notBorrowFlag_toNat _ _)⟩

/-- The shift right under either value of `SHIFT_SRC` (R128). -/
theorem shiftRightWith_effect (p : ShiftSrc) (x y : Reg) (s : State) :
    ∃ t : State, shiftRightWith p x y s = .next t ∧
      FlaggedEffect x ((shiftSource p x y s).toNat / 2) ((shiftSource p x y s).toNat % 2) s t :=
  finishFlagged_effect x _ _ s (shiftRight_toNat _) (bitOutRight_toNat _)

/-- The shift left under either value of `SHIFT_SRC` (R130). -/
theorem shiftLeftWith_effect (p : ShiftSrc) (x y : Reg) (s : State) :
    ∃ t : State, shiftLeftWith p x y s = .next t ∧
      FlaggedEffect x ((shiftSource p x y s).toNat * 2 % 256) ((shiftSource p x y s).toNat / 128) s t :=
  finishFlagged_effect x _ _ s (shiftLeft_toNat _) (bitOutLeft_toNat _)

/-- Settles O30: SHR and SHL are the two shifts at the value taken for `SHIFT_SRC`, which is VX (D7). -/
theorem shiftsMoveOneBit : Obligations.ShiftsMoveOneBit :=
  fun x y s => ⟨shiftRightWith_effect .vx x y s, shiftLeftWith_effect .vx x y s, shiftRightWith_effect .vy x y s,
    shiftLeftWith_effect .vy x y s⟩

end Sys2Proof.Machine

/-! SUPPORT. The index register and memory instructions: the range check of an access at `I`, the bytes that Fx33
stores, and from these and the frame what each instruction leaves (43_index_memory.md). -/

namespace Sys2Proof.Machine

/-! ### The range check of an access at `I` -/

section
variable {s : State} {n : Nat}

/-- An access whose last address is `I + n` is made where that address is a cell of memory (R52). -/
theorem checkRange_base_of_le (h : s.i.toNat + n ≤ 4095) (go : Result) : checkRange s.base (n + 1) go = go :=
  checkRange_inside (not_outOfRange_iff.2 (.inr (Nat.succ_le_succ h))) go

/-- An access that reaches past the last cell faults with the lowest address out of range (R52, D2). -/
theorem checkRange_base_of_gt (h : s.i.toNat + n > 4095) (go : Result) :
    checkRange s.base (n + 1) go = .fault (.memoryOutOfBounds (max s.i.toNat 4096)) :=
  checkRange_outside ⟨n.succ_pos, h⟩ go

end

/-! ### The stores -/

/-- The three digits as numbers: each is below 10, so no byte cuts it off (R143). -/
theorem decimalDigits_map_toNat (b : Byte) :
    (decimalDigits b).map BitVec.toNat = [b.toNat / 100, b.toNat / 10 % 10, b.toNat % 10] := by
  simp only [decimalDigits, List.map_cons, List.map_nil, BitVec.toNat_ofNat, List.cons.injEq, and_true]
  omega

/-- After a completed Fx33 the cells at `I`, `I + 1` and `I + 2` hold the three digits in order (R143). -/
theorem exec_ldB_byteAt {x : Reg} {s t : State} (h : exec (.ldB x) s = .next t) (k : Fin 3) :
    (t.byteAt (s.i.toNat + k.val)).toNat =
      [(s.reg x).toNat / 100, (s.reg x).toNat / 10 % 10, (s.reg x).toNat % 10][k] := by
  obtain ⟨-, rfl⟩ := checkRange_next_eq_next.1 h
  have hbyte := Memory.writeBytes_inside s.mem s.base (decimalDigits (s.reg x)) k.val k.isLt
  simp only [← decimalDigits_map_toNat, Fin.getElem_fin, List.getElem_map]
  exact congrArg BitVec.toNat hbyte

/-- Settles O35, by the range check: the three digits, and the rest by the frame of memory. -/
theorem storeDecimalDigits : Obligations.StoreDecimalDigits := by
  refine fun x => ⟨decode_encode (.ldB x), fun s => ⟨fun hin => ?_, fun hout => checkRange_base_of_gt hout _⟩⟩
  have hexec : exec (.ldB x) s = .next _ := checkRange_base_of_le hin _
  exact ⟨_, hexec, exec_ldB_byteAt hexec 0, exec_ldB_byteAt hexec 1, exec_ldB_byteAt hexec 2,
    fun a ha => memoryChangesOnlyWhereStored _ s _ a hexec ha, rfl,
    componentsChangeOnlyByTheirWriters _ _ _ hexec⟩

/-- Settles O36, by the range check: the bytes stored, and the rest by the frame of memory. -/
theorem storeRegistersThroughX : Obligations.StoreRegistersThroughX := by
  refine fun x => ⟨decode_encode (.stRegs x), fun s => ⟨fun hin => ?_, fun hout => checkRange_base_of_gt hout _⟩⟩
  have hexec := exec_stRegs_inside hin
  exact ⟨_, hexec, fun k hk => exec_stRegs_byteAt hexec hk,
    fun a ha => memoryChangesOnlyWhereStored _ s _ a hexec ha, rfl,
    componentsChangeOnlyByTheirWriters _ _ _ hexec⟩

/-! ### The load -/

/-- Settles O37, by the range check: the register file loaded, entry by entry. -/
theorem loadRegistersThroughX : Obligations.LoadRegistersThroughX := by
  refine fun x => ⟨decode_encode (.ldRegs x), fun s => ⟨fun hin => ?_, fun hout => checkRange_base_of_gt hout _⟩⟩
  have hexec : exec (.ldRegs x) s = .next _ := checkRange_base_of_le hin _
  exact ⟨_, hexec, getElem_regsLoaded x s.base s, rfl, componentsChangeOnlyByTheirWriters _ _ _ hexec⟩

/-- Settles O38: both instructions keep `I`, so the load reads the very cells that the store wrote. -/
theorem storeThenLoadRecoversRegisters : Obligations.StoreThenLoadRecoversRegisters := by
  intro x s u hin
  obtain ⟨t, hstore, hstored, -, -, htframe⟩ := ((storeRegistersThroughX x).2 s).1 hin
  refine ⟨t, hstore, fun hui hmem => ?_⟩
  have hi : u.i = s.i := hui.trans (htframe .i (by decide))
  obtain ⟨w, hload, hloaded, -, hwframe⟩ := ((loadRegistersThroughX x).2 u).1 (hi ▸ hin)
  have hwi : w.i = u.i := hwframe .i (by decide)
  refine ⟨w, hload, hwi.trans hi, fun k hk => ?_⟩
  calc w.reg k
      = u.byteAt (u.i.toNat + k.val) := by rw [hloaded k, if_pos hk]
    _ = t.byteAt (s.i.toNat + k.val) := by rw [hmem, hi]
    _ = s.reg k := hstored k hk

/-! ### The index register -/

/-- Settles O32: the address field is widened with zeros. -/
theorem loadIndexSetsI : Obligations.LoadIndexSetsI := fun nnn => ⟨decode_encode (.ldI nnn), fun s =>
  ⟨_, rfl, target_toNat nnn, rfl, componentsChangeOnlyByTheirWriters (.ldI nnn) s _ rfl⟩⟩

/-- Settles O33: the sum of two words is taken modulo 2 ^ 16. -/
theorem addToIndexWraps : Obligations.AddToIndexWraps := by
  refine fun x s => ⟨_, rfl, ?_, rfl, componentsChangeOnlyByTheirWriters (.addI x) s _ rfl⟩
  calc (s.i + zext16 (s.reg x)).toNat
      = (s.i.toNat + (zext16 (s.reg x)).toNat) % 65536 := BitVec.toNat_add _ _
    _ = (s.i.toNat + (s.reg x).toNat) % 65536 := by rw [zext16_toNat]

/-- Settles O34: five times a byte is below 2 ^ 16. -/
theorem glyphAddressIsFiveTimes : Obligations.GlyphAddressIsFiveTimes := fun x s =>
  ⟨_, rfl, glyphAddr_toNat (s.reg x), rfl, componentsChangeOnlyByTheirWriters (.ldF x) s _ rfl⟩

end Sys2Proof.Machine

/-! SUPPORT. The cells a draw visits: that they are distinct, that they are those a sprite's visible 1 bits lie on, and
from the draw loop's law what a completed draw leaves of the screen and of VF (44_display.md). -/

namespace Sys2Proof.Machine

/-! ### The visited cells -/

/-- Two pixels of one sprite share a cell only if they are the same pixel: a sprite has fewer columns and rows than the
screen, so no wrapped pixel comes round to another (R152, R154). -/
theorem pixelCell_injective {pol : EdgePolicy} {x0 y0 r c r' c' p : Nat} (hr : r < 32) (hr' : r' < 32) (hc : c < 8)
    (hc' : c' < 8) (h : pixelCell pol x0 y0 r c = some p) (h' : pixelCell pol x0 y0 r' c' = some p) :
    r = r' ∧ c = c' := by
  cases pol with
  | wrap =>
    simp only [pixelCell, cellIndex, Config.columns, Config.rows, Option.some.injEq] at h h'
    omega
  | clip =>
    simp only [pixelCell, cellIndex, Config.columns, Option.ite_none_right_eq_some, Option.some.injEq] at h h'
    omega

/-- The cells of one row are distinct (R154). -/
theorem rowCells_nodup {pol : EdgePolicy} {x0 y0 r : Nat} (hr : r < 32) (b : Byte) :
    (rowCells pol x0 y0 r b).Nodup := by
  refine List.pairwise_filterMap.2 (List.nodup_range.imp_of_mem fun hc hc' hne p hp p' hp' heq => hne ?_)
  rw [Option.ite_none_right_eq_some] at hp hp'
  exact (pixelCell_injective hr hr (List.mem_range.1 hc) (List.mem_range.1 hc') hp.2 (heq ▸ hp'.2)).2

/-- The cells of a sprite's rows are distinct, as long as the rows are no more than the screen's (R154). -/
theorem spriteCells_nodup {pol : EdgePolicy} {x0 y0 r : Nat} {bs : List Byte} (h : r + bs.length ≤ 32) :
    (spriteCells pol x0 y0 r bs).Nodup := by
  induction bs generalizing r with
  | nil => exact List.nodup_nil
  | cons b bs ih =>
    rw [List.length_cons] at h
    refine List.nodup_append'.2 ⟨rowCells_nodup (by omega) b, ih (by omega), fun p hrow hrest => ?_⟩
    obtain ⟨c, hc, -, hp⟩ := mem_rowCells.1 hrow
    obtain ⟨k, hk, hrow'⟩ := mem_spriteCells.1 hrest
    obtain ⟨c', hc', -, hp'⟩ := mem_rowCells.1 hrow'
    have hsame := (pixelCell_injective (by omega) (by omega) hc hc' hp hp').1
    omega

@[simp] theorem length_spriteRows (n : Fin 16) (s : State) : (spriteRows n s).length = n.val := by
  simp [spriteRows, Memory.readBytes]

/-- Row `r` of the sprite is the byte at `I + r` (R151). -/
@[simp] theorem getElem_spriteRows (n : Fin 16) (s : State) (r : Nat) (h : r < (spriteRows n s).length) :
    (spriteRows n s)[r] = s.byteAt (s.i.toNat + r) := by
  simp [spriteRows, Memory.readBytes, State.byteAt, State.base]

section
variable {pol : EdgePolicy} {x y : Reg} {n : Fin 16} {s t : State} {p : Nat}

theorem spriteOf_nodup : (spriteOf pol x y n s).Nodup :=
  spriteCells_nodup (by rw [length_spriteRows]; omega)

theorem spriteOf_lt (h : p ∈ spriteOf pol x y n s) : p < Config.cells := by
  obtain ⟨_, _, hrow⟩ := mem_spriteCells.1 h
  obtain ⟨_, _, _, hp⟩ := mem_rowCells.1 hrow
  exact pixelCell_lt hp

/-- The loop visits exactly the cells of the set T of R153. -/
theorem mem_spriteOf : p ∈ spriteOf pol x y n s ↔ Touches pol x y n s p := by
  simp only [spriteOf, mem_spriteCells, mem_rowCells, getElem_spriteRows, length_spriteRows, Nat.zero_add, Touches,
    exists_prop, ← exists_and_left]
  refine exists_congr fun r => exists_congr fun c =>
    and_congr_right fun _ => and_congr_right fun _ => and_congr_right fun _ => ?_
  cases pol with
  | wrap => exact Option.some_inj.trans eq_comm
  | clip =>
    refine Option.ite_none_right_eq_some.trans ?_
    rw [Option.some_inj, eq_comm, and_assoc]
    rfl

/-- The touched cells depend on memory, on `I` and on the two coordinate registers only (R151, R152). -/
theorem touches_congr (hmem : SameAt .mem s t) (hi : t.i = s.i) (hx : t.reg x = s.reg x) (hy : t.reg y = s.reg y) :
    Touches pol x y n t p ↔ Touches pol x y n s p := by
  have hbyte : ∀ a, t.byteAt a = s.byteAt a := hmem
  simp only [Touches, hbyte, hi, hx, hy]

/-! ### What a completed draw leaves -/

/-- A completed draw complements the visited cells and no other (R152). -/
theorem drawWith_cell (h : drawWith pol x y n s = .next t) (hp : p < Config.cells) :
    t.cell p = (s.cell p ^^ decide (p ∈ spriteOf pol x y n s)) := by
  obtain ⟨-, rfl⟩ := checkRange_next_eq_next.1 h
  exact (drawCells_nodup _ spriteOf_nodup s.fb false).1 p hp

/-- VF is the OR of the visited cells' old values, whichever registers give the coordinates (R152, R153). -/
theorem drawWith_flag (h : drawWith pol x y n s = .next t) :
    t.reg VF = flagByte ((spriteOf pol x y n s).any s.cell) := by
  obtain ⟨-, rfl⟩ := checkRange_next_eq_next.1 h
  have hloop := (drawCells_nodup (spriteOf pol x y n s) spriteOf_nodup s.fb false).2
  exact (State.setReg_reg _ VF _ VF).trans (congrArg flagByte hloop)

/-- The closed form of a draw in range, under either edge policy (R153). -/
theorem drawWith_effect (h : ¬ OutOfRange s.base n.val) :
    ∃ t : State, drawWith pol x y n s = .next t ∧ DrawEffect pol x y n s t := by
  have hdraw : drawWith pol x y n s = .next _ := checkRange_inside h _
  have hhit : (spriteOf pol x y n s).any s.cell = true ↔
      ∃ p, p < 2048 ∧ Touches pol x y n s p ∧ s.cell p = true := by
    simp only [List.any_eq_true, mem_spriteOf]
    exact exists_congr fun p => (and_iff_right_of_imp fun hp => spriteOf_lt (mem_spriteOf.2 hp.1)).symm
  refine ⟨_, hdraw, fun p hp => ⟨fun ht => ?_, fun ht => ?_⟩, fun hit => ?_, fun hmiss => ?_, fun z hz => by simp [hz],
    rfl, rfl, fun c hc => sameAt_of_get_eq (by simp_all)⟩
  · rw [drawWith_cell hdraw hp, decide_eq_true (mem_spriteOf.2 ht), Bool.xor_true]
  · rw [drawWith_cell hdraw hp, decide_eq_false (mt mem_spriteOf.1 ht), Bool.xor_false]
  · exact (drawWith_flag hdraw).trans (congrArg flagByte (hhit.2 hit))
  · exact (drawWith_flag hdraw).trans (congrArg flagByte (Bool.eq_false_iff.2 (mt hhit.1 hmiss)))

end

/-! ### The two instructions -/

/-- Settles O40, from the law of the clear screen. -/
theorem clearScreenClearsEveryCell : Obligations.ClearScreenClearsEveryCell :=
  ⟨decode_encode .cls, fun s => ⟨_, rfl, fun p _ => cellOf_clearScreen p, rfl, rfl,
    componentsChangeOnlyByTheirWriters .cls s _ rfl⟩⟩

/-- Settles O41: Dxyn is the draw at the value taken for `EDGE_POLICY`, which is wrap (D13). -/
theorem drawLoopIsTheCollisionDetector : Obligations.DrawLoopIsTheCollisionDetector := by
  intro x y n s hin
  have hrange : ¬ OutOfRange s.base n.val := not_outOfRange_iff.2 hin
  exact ⟨drawWith_effect hrange, fun _ => drawWith_effect hrange⟩

/-- Settles O42, by the range check; a sprite of no rows touches no cell. -/
theorem drawFaultsOnlyWithRowsOutOfRange : Obligations.DrawFaultsOnlyWithRowsOutOfRange := by
  refine fun x y n s => ⟨fun hn hout => checkRange_outside ⟨hn, Nat.le_sub_one_of_lt hout⟩ _, fun hn => ?_⟩
  obtain ⟨t, hdraw, hcell, -, hmiss, -, hdirty, hpc, hframe⟩ :=
    (drawLoopIsTheCollisionDetector x y n s (.inl hn)).1
  have hnone : ∀ p, ¬ Touches .wrap x y n s p := fun p ⟨r, _, hr, _⟩ => Nat.not_lt_zero r (hn ▸ hr)
  have hkept : ∀ p, t.cell p = s.cell p := fun p => by
    rcases Nat.lt_or_ge p 2048 with hp | hp
    · exact (hcell p hp).2 (hnone p)
    · exact (cellOf_past t.fb p hp).trans (cellOf_past s.fb p hp).symm
  refine ⟨t, hdraw, hkept, hmiss fun ⟨p, _, hp, _⟩ => hnone p hp, hdirty, hpc, fun c hc => ?_⟩
  by_cases hfb : c = .fb
  · exact hfb ▸ hkept
  · exact hframe c (by simp_all)

/-- Settles O43: distinct pixels lie on distinct cells of the screen. -/
theorem drawVisitsNoCellTwice : Obligations.DrawVisitsNoCellTwice :=
  fun _ _ _ _ _ => ⟨spriteOf_nodup, fun _ => spriteOf_lt⟩

/-- Settles O44: both draws touch the same cells, and complementing a cell twice restores it. -/
theorem drawTwiceRestoresTheScreen : Obligations.DrawTwiceRestoresTheScreen := by
  intro x y n s hin
  obtain ⟨t, hfirst, htcell, -, htmiss, htreg, -, -, htframe⟩ := (drawLoopIsTheCollisionDetector x y n s hin).1
  refine ⟨t, hfirst, fun hflag => ?_⟩
  have hi : t.i = s.i := htframe .i (by decide)
  obtain ⟨u, hsecond, hucell, huhit, humiss, -⟩ := (drawLoopIsTheCollisionDetector x y n t (hi ▸ hin)).1
  have hreg : ∀ z, z = x ∨ z = y → t.reg z = s.reg z := fun z hz => by
    by_cases hz15 : z = 15
    · subst hz15
      exact hflag.resolve_left fun ⟨hx, hy⟩ => hz.elim (hx ·.symm) (hy ·.symm)
    · exact htreg z hz15
  have hsame : ∀ p, Touches .wrap x y n t p ↔ Touches .wrap x y n s p := fun p =>
    touches_congr (htframe .mem (by decide)) hi (hreg x (.inl rfl)) (hreg y (.inr rfl))
  refine ⟨u, hsecond, fun p hp => ?_, fun hclear => ⟨htmiss ?_, fun ⟨p, ht⟩ => huhit ?_, fun hnone => humiss ?_⟩⟩
  · by_cases ht : Touches .wrap x y n s p
    · rw [(hucell p hp).1 ((hsame p).2 ht), (htcell p hp).1 ht, Bool.not_not]
    · rw [(hucell p hp).2 (mt (hsame p).1 ht), (htcell p hp).2 ht]
  · rintro ⟨p, -, ht, hset⟩
    exact Bool.false_ne_true ((hclear p ht).symm.trans hset)
  · have hp : p < 2048 := spriteOf_lt (mem_spriteOf.2 ht)
    exact ⟨p, hp, (hsame p).2 ht, by rw [(htcell p hp).1 ht, hclear p ht, Bool.not_false]⟩
  · rintro ⟨p, -, ht, -⟩
    exact hnone ⟨p, (hsame p).1 ht⟩

end Sys2Proof.Machine

/-! SUPPORT. The timer instructions and the key wait: three copies, and the wait by whether a key is pressed
(45_timers_keys.md). -/

namespace Sys2Proof.Machine

/-! ### The key wait -/

section
variable {s : State} (x : Reg)

/-- With no key pressed Fx0A waits: its next state is the present one (R161). -/
theorem exec_ldVxK_of_no_key (h : ∀ k : Reg, s.key k = 0#8) : exec (.ldVxK x) s = .next s :=
  exec_ldVxK_eq_next.2 (.inl ⟨State.firstPressed_eq_none.2 h, rfl⟩)

/-- With a key pressed Fx0A ends as a load of the lowest pressed code (R161, D19). -/
theorem exec_ldVxK_of_lowest_key {k : Reg} (hdown : s.key k ≠ 0#8) (hlow : ∀ j : Reg, j < k → s.key j = 0#8) :
    exec (.ldVxK x) s = finishReg x (codeByte k) s :=
  exec_ldVxK_eq_next.2 (.inr ⟨k, State.firstPressed_eq_some.2 ⟨hdown, hlow⟩, rfl⟩)

end

/-- Settles O46, by whether a key is pressed: the wait, or the common end of the register loads. -/
theorem keyWaitTakesLowestPressedKey : Obligations.KeyWaitTakesLowestPressedKey := by
  refine fun x s => ⟨exec_ldVxK_of_no_key x, fun k hdown hlow => ?_⟩
  obtain ⟨t, hend, hreg, hframe⟩ := finishReg_effect x (codeByte k) s
  exact ⟨t, (exec_ldVxK_of_lowest_key x hdown hlow).trans hend, hreg ▸ codeByte_toNat k, hframe⟩

/-! ### The timers -/

/-- Settles O45: Fx07 has the common end of the register loads; Fx15 and Fx18 write their timer, and the frame says the
rest. -/
theorem timerInstructionsCopy : Obligations.TimerInstructionsCopy := fun x s =>
  ⟨finishReg_effect x s.dt s,
    ⟨_, rfl, rfl, rfl, componentsChangeOnlyByTheirWriters (.ldDtVx x) s _ rfl⟩,
    ⟨_, rfl, rfl, rfl, componentsChangeOnlyByTheirWriters (.ldStVx x) s _ rfl⟩⟩

end Sys2Proof.Machine

/-! SUPPORT. What one STEP answers: the instruction it reaches, the faults an instruction can raise and when, and the
reply it gives; from these the faults of the whole machine, and the two transactions TICK and KEYS with FRAME_ACK
(60_exceptions.md). -/

namespace Sys2Proof.Machine

/-! ### Fetch, decode, execute -/

theorem step_of_fetch {s : State} {w : Word} {i : Instr} (hf : fetch s = .ok w) (hd : decode w = some i) :
    step s = exec i s := by
  simp only [step, hf, hd]

section
variable {s : State} {i : Instr}

theorem step_of_decode (hpc : s.pc.toNat ≤ 4094) (hd : decode (s.wordAt s.pc.toNat) = some i) : step s = exec i s :=
  step_of_fetch (fetch_eq_ok.2 ⟨hpc, rfl⟩) hd

theorem step_of_illegal (hpc : s.pc.toNat ≤ 4094) (hd : decode (s.wordAt s.pc.toNat) = none) :
    step s = .fault (.decodeFault (s.wordAt s.pc.toNat)) := by
  simp only [step, fetch_eq_ok.2 ⟨hpc, rfl⟩, hd, raise]

end

/-- Settles O8, by what the fetch and the decoder answer. -/
theorem stepFetchesDecodesExecutes : Obligations.StepFetchesDecodesExecutes :=
  fun _ => ⟨step_of_pc_gt, fun hpc => ⟨step_of_illegal hpc, fun _ => step_of_decode hpc⟩⟩

/-- All sixteen bits of a word, numbered as the opcode table numbers them, are the word. -/
theorem tableWord_toNat (w : Word) : tableWord 16 w.toNat = w := by
  rw [tableWord, Nat.mod_eq_of_lt w.isLt, BitVec.ofNat_toNat, BitVec.setWidth_eq]

/-- Settles O9: the fetch answers the word placed, and the decoder inverts the encoder. -/
theorem placedWordIsExecuted : Obligations.PlacedWordIsExecuted := by
  intro s i hpc
  rw [State.withFetchWord, tableWord_toNat]
  exact step_of_fetch (fetch_placeWord s (encode i) hpc) (decode_encode i)

/-! ### The faults of an instruction -/

/-- How many bytes an instruction accesses from address `I` on; 0 for a form that accesses none (R52, R178). -/
def accessLength : Instr → Nat
  | .drw _ _ n => n.val
  | .ldB _ => 3
  | .stRegs x => x.val + 1
  | .ldRegs x => x.val + 1
  | _ => 0

/-- The faults an instruction raises at a state, each with its condition (R176, R177, R178). -/
inductive Raises (s : State) : Instr → Fault → Prop
  | underflow (h : s.sp.val = 0) : Raises s .ret .stackUnderflow
  | overflow (nnn : Addr12) (h : s.sp.val = 16) : Raises s (.call nnn) .stackOverflow
  | outOfBounds (i : Instr) (h : OutOfRange s.base (accessLength i)) :
      Raises s i (.memoryOutOfBounds (max s.i.toNat 4096))

/-- The end of an instruction that accesses memory at `I`: its next state, or its range fault. -/
theorem checkRange_next_or_raises {i : Instr} {s u : State}
    (h : exec i s = checkRange s.base (accessLength i) (.next u)) :
    (∃ t, exec i s = .next t) ∨ ∃ f, Raises s i f ∧ exec i s = .fault f := by
  by_cases hr : OutOfRange s.base (accessLength i)
  · exact .inr ⟨_, .outOfBounds i hr, h.trans (checkRange_outside hr _)⟩
  · exact .inl ⟨u, h.trans (checkRange_inside hr _)⟩

/-- An instruction completes or raises one of its faults; none is refused. -/
theorem exec_next_or_raises (i : Instr) (s : State) :
    (∃ t, exec i s = .next t) ∨ ∃ f, Raises s i f ∧ exec i s = .fault f := by
  cases i with
  | ret =>
    rcases Nat.eq_zero_or_pos s.sp.val with hsp | hsp
    · exact .inr ⟨_, .underflow hsp, exec_ret_of_empty hsp⟩
    · exact .inl ⟨_, exec_ret_eq_next.2 ⟨hsp, rfl⟩⟩
  | call nnn =>
    rcases Nat.eq_or_lt_of_le (Nat.le_of_lt_succ s.sp.isLt) with hsp | hsp
    · exact .inr ⟨_, .overflow nnn hsp, exec_call_of_full hsp⟩
    · exact .inl ⟨_, exec_call_eq_next.2 ⟨hsp, rfl⟩⟩
  | drw | ldB | stRegs | ldRegs => exact checkRange_next_or_raises rfl
  | ldVxK x =>
    cases hk : s.firstPressed with
    | none => exact .inl ⟨_, exec_ldVxK_eq_next.2 (.inl ⟨hk, rfl⟩)⟩
    | some k => exact .inl ⟨_, exec_ldVxK_eq_next.2 (.inr ⟨k, hk, rfl⟩)⟩
  | _ => exact .inl ⟨_, rfl⟩

theorem exec_of_raises {i : Instr} {s : State} {f : Fault} (h : Raises s i f) : exec i s = .fault f := by
  cases h with
  | underflow hsp => exact exec_ret_of_empty hsp
  | overflow nnn hsp => exact exec_call_of_full hsp
  | outOfBounds i hr =>
    cases i with
    | drw | ldB | stRegs | ldRegs => exact checkRange_outside hr _
    | _ => exact absurd hr.1 (Nat.lt_irrefl 0)

theorem Raises.code_bounds {i : Instr} {s : State} {f : Fault} (h : Raises s i f) : 1 ≤ f.code ∧ f.code ≤ 4 := by
  cases h <;> simp [Fault.code]

theorem exec_eq_fault {i : Instr} {s : State} {f : Fault} : exec i s = .fault f ↔ Raises s i f := by
  refine ⟨fun h => ?_, exec_of_raises⟩
  obtain ⟨t, ht⟩ | ⟨g, hg, hexec⟩ := exec_next_or_raises i s
  · cases ht.symm.trans h
  · cases hexec.symm.trans h
    exact hg

section
variable {i : Instr} {s : State} {a : Nat}

theorem raises_stackOverflow : Raises s i .stackOverflow ↔ s.sp.val = 16 ∧ ∃ nnn, i = .call nnn := by
  constructor
  · intro h
    cases h with
    | overflow nnn hsp => exact ⟨hsp, nnn, rfl⟩
  · rintro ⟨hsp, nnn, rfl⟩
    exact .overflow nnn hsp

theorem raises_stackUnderflow : Raises s i .stackUnderflow ↔ s.sp.val = 0 ∧ i = .ret := by
  constructor
  · intro h
    cases h with
    | underflow hsp => exact ⟨hsp, rfl⟩
  · rintro ⟨hsp, rfl⟩
    exact .underflow hsp

theorem raises_memoryOutOfBounds :
    Raises s i (.memoryOutOfBounds a) ↔ OutOfRange s.base (accessLength i) ∧ a = max s.i.toNat 4096 := by
  constructor
  · intro h
    cases h with
    | outOfBounds i hr => exact ⟨hr, rfl⟩
  · rintro ⟨hr, rfl⟩
    exact .outOfBounds i hr

/-- The four instructions whose access at `I` can be out of range, each on its own condition (R178). -/
theorem outOfRange_accessLength : OutOfRange s.base (accessLength i) ↔
    (∃ x y n, i = .drw x y n ∧ n.val > 0 ∧ s.i.toNat + n.val - 1 > 4095) ∨
      (∃ x, i = .ldB x ∧ s.i.toNat + 2 > 4095) ∨ (∃ x, i = .stRegs x ∧ s.i.toNat + x.val > 4095) ∨
      (∃ x, i = .ldRegs x ∧ s.i.toNat + x.val > 4095) := by
  cases i with
  | drw | ldB | stRegs | ldRegs => simp [OutOfRange, accessLength, State.base]
  | _ => simp [OutOfRange, accessLength]

end

/-! ### The faults of a step -/

/-- A step faults at the fetch, at the decode stage, or as the instruction that it reaches does (R172). -/
theorem step_eq_fault {s : State} {f : Fault} : step s = .fault f ↔
    (s.pc.toNat > 4094 ∧ f = rangeFault s.pc.toNat) ∨
      (s.pc.toNat ≤ 4094 ∧
        ((decode (s.wordAt s.pc.toNat) = none ∧ f = .decodeFault (s.wordAt s.pc.toNat)) ∨
          ∃ i, decode (s.wordAt s.pc.toNat) = some i ∧ Raises s i f)) := by
  rcases Nat.lt_or_ge 4094 s.pc.toNat with hpc | hpc
  · simp [step_of_pc_gt hpc, rangeFault, hpc, eq_comm]
  · cases hd : decode (s.wordAt s.pc.toNat) with
    | none => simp [step_of_illegal hpc hd, hpc, eq_comm]
    | some i => simp [step_of_decode hpc hd, exec_eq_fault, hpc]

/-- A step completes or faults, and LOAD's fault is none of its faults (R179). -/
theorem step_next_or_fault (s : State) :
    (∃ t, step s = .next t) ∨ ∃ f, step s = .fault f ∧ 1 ≤ f.code ∧ f.code ≤ 4 := by
  rcases Nat.lt_or_ge 4094 s.pc.toNat with hpc | hpc
  · exact .inr ⟨_, step_of_pc_gt hpc, by simp [Fault.code]⟩
  · cases hd : decode (s.wordAt s.pc.toNat) with
    | none => exact .inr ⟨_, step_of_illegal hpc hd, by simp [Fault.code]⟩
    | some i =>
      rw [step_of_decode hpc hd]
      exact (exec_next_or_raises i s).imp_right fun ⟨f, hf, hexec⟩ => ⟨f, hexec, hf.code_bounds⟩

/-- Settles O10: the fetch, and the four instructions with an access at `I`. -/
theorem outOfBoundsArisesInFivePlaces : Obligations.OutOfBoundsArisesInFivePlaces := by
  intro s
  rcases Nat.lt_or_ge 4094 s.pc.toNat with hpc | hpc
  · exact iff_of_true ⟨_, step_of_pc_gt hpc⟩ (.inl hpc)
  · cases hd : decode (s.wordAt s.pc.toNat) with
    | none => simp [step_of_illegal hpc hd, Nat.not_lt.2 hpc]
    | some i =>
      simp [step_of_decode hpc hd, exec_eq_fault, raises_memoryOutOfBounds, outOfRange_accessLength, hpc,
        Nat.not_lt.2 hpc]

/-- Settles O11: a fetch faults with the address of the fetch, an instruction with that of its access at `I`. -/
theorem outOfBoundsCarriesLowestAddress : Obligations.OutOfBoundsCarriesLowestAddress := by
  intro s a h
  obtain ⟨hpc, hf⟩ | ⟨hpc, ⟨-, hf⟩ | ⟨i, -, hf⟩⟩ := step_eq_fault.1 h
  · rw [if_pos hpc]
    exact Fault.memoryOutOfBounds.inj hf
  · cases hf
  · rw [if_neg (Nat.not_lt.2 hpc)]
    exact (raises_memoryOutOfBounds.1 hf).2

/-! ### Runs of calls -/

/-- With room for its frame a call completes and raises `sp` by one (R102). -/
theorem exec_call_next_sp {s : State} (nnn : Addr12) (h : s.sp.val < 16) :
    ∃ t : State, exec (.call nnn) s = .next t ∧ t.sp.val = s.sp.val + 1 :=
  ⟨_, exec_call_eq_next.2 ⟨h, rfl⟩, rfl⟩

/-- A run of calls completes as long as their frames fit above those held (R176). -/
theorem callAll_of_room {targets : List Addr12} {s : State} (h : s.sp.val + targets.length ≤ 16) :
    ∃ t : State, callAll targets s = .next t ∧ t.sp.val = s.sp.val + targets.length := by
  induction targets generalizing s with
  | nil => exact ⟨s, rfl, rfl⟩
  | cons nnn rest ih =>
    rw [List.length_cons] at h ⊢
    obtain ⟨t, hcall, hsp⟩ := exec_call_next_sp nnn (show s.sp.val < 16 by omega)
    obtain ⟨u, hrest, husp⟩ := ih (s := t) (by omega)
    exact ⟨u, by simp only [callAll, hcall, hrest], by omega⟩

/-- A run of calls overflows once the frames no longer fit (R176). -/
theorem callAll_of_overflow {targets : List Addr12} {s : State} (h : s.sp.val + targets.length > 16) :
    callAll targets s = .fault .stackOverflow := by
  induction targets generalizing s with
  | nil => exact absurd s.sp.isLt (Nat.not_lt.2 h)
  | cons nnn rest ih =>
    rw [List.length_cons] at h
    rcases Nat.eq_or_lt_of_le (Nat.le_of_lt_succ s.sp.isLt) with hfull | hroom
    · simp only [callAll, exec_call_of_full hfull]
    · obtain ⟨t, hcall, hsp⟩ := exec_call_next_sp nnn hroom
      simp only [callAll, hcall]
      exact ih (by omega)

/-- Settles O12: the two faults from what an instruction raises, the runs by induction on the targets. -/
theorem stackFaultsAriseExactlyAtTheLimits : Obligations.StackFaultsAriseExactlyAtTheLimits := by
  refine ⟨fun s => ⟨?_, ?_⟩, fun _ _ => ⟨callAll_of_room, callAll_of_overflow⟩⟩
  · simp only [step_eq_fault, raises_stackOverflow, rangeFault, reduceCtorEq, and_false, false_or]
    exact and_congr_right fun _ =>
      ⟨fun ⟨_, hd, hsp, nnn, hi⟩ => ⟨hsp, nnn, hi ▸ hd⟩, fun ⟨hsp, nnn, hd⟩ => ⟨_, hd, hsp, nnn, rfl⟩⟩
  · simp only [step_eq_fault, raises_stackUnderflow, rangeFault, reduceCtorEq, and_false, false_or]
    exact and_congr_right fun _ =>
      ⟨fun ⟨_, hd, hsp, hi⟩ => ⟨hsp, hi ▸ hd⟩, fun ⟨hsp, hd⟩ => ⟨_, hd, hsp, rfl⟩⟩

/-! ### What STEP reports -/

theorem current_eq_some {s : State} {i : Instr} :
    current s = some i ↔ s.pc.toNat ≤ 4094 ∧ decode (s.wordAt s.pc.toNat) = some i := by
  unfold current
  cases hf : fetch s with
  | error f =>
    have hpc := (fetch_eq_error.1 hf).1
    exact iff_of_false nofun fun ⟨h, _⟩ => by omega
  | ok w =>
    obtain ⟨hpc, rfl⟩ := fetch_eq_ok.1 hf
    simp [hpc]

theorem waits_iff {i : Instr} {s : State} : waits i s = true ↔ (∃ x, i = .ldVxK x) ∧ ∀ k : Reg, s.key k = 0#8 := by
  cases i with
  | ldVxK x => simp [waits, State.firstPressed_eq_none]
  | _ => simp [waits]

/-- The test by which `stepReply` tells `Waiting` from `Done` (R161, R171). -/
theorem current_any_waits {s : State} : (current s).any (fun i => waits i s) = true ↔
    s.pc.toNat ≤ 4094 ∧ (∃ x, decode (s.wordAt s.pc.toNat) = some (.ldVxK x)) ∧ ∀ k : Reg, s.key k = 0#8 := by
  rw [Option.any_eq_true]
  simp only [current_eq_some, waits_iff]
  constructor
  · rintro ⟨_, ⟨hpc, hd⟩, ⟨x, rfl⟩, hkeys⟩
    exact ⟨hpc, ⟨x, hd⟩, hkeys⟩
  · rintro ⟨hpc, ⟨x, hd⟩, hkeys⟩
    exact ⟨_, ⟨hpc, hd⟩, ⟨x, rfl⟩, hkeys⟩

section
variable {s t : State} {f : Fault}

/-- A step that waits leaves the state as it was (R161). -/
theorem step_of_waits (h : (current s).any (fun i => waits i s) = true) : step s = .next s := by
  obtain ⟨hpc, ⟨x, hd⟩, hkeys⟩ := current_any_waits.1 h
  exact (step_of_decode hpc hd).trans (exec_ldVxK_of_no_key x hkeys)

theorem stepReply_of_fault (h : step s = .fault f) : stepReply s = .fault f := by
  simp only [stepReply, h]

theorem stepReply_of_next (h : step s = .next t) :
    stepReply s = if (current s).any (fun i => waits i s) then .waiting else .done := by
  simp only [stepReply, h]

/-- A STEP that reports anything but `Done` leaves the state as it was (R171, R173). -/
theorem perform_step_of_ne_done (h : (perform .step s).1 ≠ .done) : (perform .step s).2 = s := by
  obtain ⟨t, ht⟩ | ⟨f, hf, -⟩ := step_next_or_fault s
  · obtain ⟨hwaits, -⟩ := ite_ne_right_iff.1 ((stepReply_of_next ht).symm.trans_ne h)
    exact congrArg (stateAfter s) (step_of_waits hwaits)
  · exact perform_step_fault (stepReply_of_fault hf)

end

/-- Settles O15: `Waiting` is reported of a completed step only, and a step that waits completes. -/
theorem waitingIsKeyWaitWithNoKeyPressed : Obligations.WaitingIsKeyWaitWithNoKeyPressed := by
  refine fun s => Iff.trans ⟨fun h => ?_, fun hw => ?_⟩ (current_any_waits (s := s))
  · change stepReply s = .waiting at h
    obtain ⟨t, ht⟩ | ⟨f, hf, -⟩ := step_next_or_fault s
    · by_contra hw
      cases h.symm.trans ((stepReply_of_next ht).trans (if_neg hw))
    · cases (stepReply_of_fault hf).symm.trans h
  · exact (stepReply_of_next (step_of_waits hw)).trans (if_pos hw)

/-- Settles O14: a STEP from the state left is the same STEP again. -/
theorem faultAndWaitingLeaveStateUnmodified : Obligations.FaultAndWaitingLeaveStateUnmodified := by
  rintro s r rfl hr
  have hkept := perform_step_of_ne_done hr
  exact ⟨hkept, by rw [hkept]; exact Prod.ext rfl hkept⟩

/-! ### The codes -/

/-- STEP reports `Done` or `Waiting`, with code 0, or a fault, with a code from 1 to 4 (R174). -/
theorem stepReply_code (s : State) : ∃ c : Nat, (stepReply s).code = some c ∧ c ≤ 4 ∧
    (c = 0 ↔ stepReply s = .done ∨ stepReply s = .waiting) := by
  obtain ⟨t, ht⟩ | ⟨f, hf, hlow, hhigh⟩ := step_next_or_fault s
  · rw [stepReply_of_next ht]
    split
    · exact ⟨0, rfl, by decide, by simp⟩
    · exact ⟨0, rfl, by decide, by simp⟩
  · rw [stepReply_of_fault hf]
    exact ⟨f.code, rfl, hhigh, iff_of_false (by omega) (by simp)⟩

theorem loadReply_code {bytes : List Byte} {s : State} :
    (loadReply (loadProgram bytes s)).code = some 5 ↔ bytes.length > Config.maxImage := by
  unfold loadProgram raise
  split <;> simp_all [loadReply, Reply.code, Fault.code]

/-- Settles O13: the outcomes of a step, and the transactions one by one. -/
theorem everyStepCompletesOrFaults : Obligations.EveryStepCompletesOrFaults := by
  refine fun s => ⟨step_next_or_fault s, stepReply_code s, fun tr => ?_⟩
  cases tr with
  | load bytes => simpa [perform] using loadReply_code
  | step =>
    obtain ⟨c, hc, hle, -⟩ := stepReply_code s
    refine iff_of_false (fun h => ?_) nofun
    cases hc.symm.trans h
    omega
  | reset | tick | keys | frameAck => exact iff_of_false nofun nofun

/-! ### TICK, KEYS and FRAME_ACK -/

/-- A timer after TICK: one less, and 0 from 0 (R184). -/
theorem timer_tick_toNat (b : Byte) : (if b = 0#8 then 0#8 else b - 1#8).toNat = b.toNat - 1 := by
  split <;> bv_omega

/-- Settles O47: each timer counts down on its own. -/
theorem tickDecrementsRunningTimers : Obligations.TickDecrementsRunningTimers := by
  refine fun s => ⟨s.tick, rfl, timer_tick_toNat s.dt, timer_tick_toNat s.st, fun c hc => sameAt_of_get_eq ?_⟩
  simp_all [State.tick]

/-- Settles O48: each of the two writes one component, and KEYS one entry of it. -/
theorem keysAndFrameAckWriteOnlyTheirs : Obligations.KeysAndFrameAckWriteOnlyTheirs := by
  refine fun s => ⟨fun k b => ⟨s.setKey k b, rfl, by simp, fun j hj => by simp [hj], fun c hc => ?_⟩,
    s.frameAck, rfl, rfl, fun c hc => ?_⟩
  · exact sameAt_of_get_eq (Component.get_setKey s (List.ne_of_not_mem_cons hc) k b)
  · exact sameAt_of_get_eq (Component.get_setDirty s (List.ne_of_not_mem_cons hc) false)

end Sys2Proof.Machine

/-! SUPPORT. LOAD, by the length of the image, and the first STEP after RESET (70_reset_and_hazards.md R201, R204). -/

namespace Sys2Proof.Machine

/-! ### LOAD -/

section
variable {bytes : List Byte} (s : State)

theorem perform_load_of_fits (h : bytes.length ≤ Config.maxImage) :
    perform (.load bytes) s = (.ok, s.setMem (s.mem.writeBytes Config.progBase bytes)) := by
  simp only [perform, loadProgram, if_neg (Nat.not_lt.2 h), loadReply, stateAfter]

theorem perform_load_of_too_large (h : bytes.length > Config.maxImage) :
    perform (.load bytes) s = (.fault (.programTooLarge bytes.length), s) := by
  simp only [perform, loadProgram, if_pos h, raise, loadReply, stateAfter]

end

/-- Settles O49, by the length of the image: a run of byte writes from 0x200 on, or the fault. -/
theorem loadCopiesTheImage : Obligations.LoadCopiesTheImage := by
  refine fun bytes s => ⟨fun hfits => ?_, perform_load_of_too_large s⟩
  exact ⟨_, perform_load_of_fits s hfits, Memory.writeBytes_inside s.mem Config.progBase bytes,
    Memory.writeBytes_outside s.mem Config.progBase bytes,
    fun c hc => sameAt_of_get_eq (Component.get_setMem s (List.ne_of_not_mem_cons hc) _)⟩

/-! ### The first step after RESET -/

/-- The entry point lies above the font, so after RESET the word there is 0 (R34, R51). -/
theorem reset_wordAt_pc : State.reset.wordAt State.reset.pc.toNat = 0x0000#16 :=
  congrArg₂ bytesWord (unlisted_above_font (by decide)) (unlisted_above_font (by decide))

/-- Settles O51: the word at the entry point is 0x0000, which the decoder refuses (R84). -/
theorem firstStepAfterResetFaults : Obligations.FirstStepAfterResetFaults := by
  have hillegal : decode (State.reset.wordAt State.reset.pc.toNat) = none := by
    rw [reset_wordAt_pc]
    decide
  have hstep := step_of_illegal (by decide) hillegal
  rwa [reset_wordAt_pc] at hstep

end Sys2Proof.Machine
